-- ==== Sys2Proof/Word.lean ====
section
/-! DEFINITION. The bit-vector types of the Bech32 engine (00_scope.md R9, R10). -/

namespace Sys2Proof

/-- A command word, a window register or bus data: 32 bits (00_scope.md R9). -/
abbrev Word := BitVec 32

/-- A character, an HRP byte or a converter input: 8 bits (00_scope.md R9). -/
abbrev Byte := BitVec 8

/-- A 5-bit symbol value, 0 to 31 (00_scope.md R9). -/
abbrev Symbol := BitVec 5

/-- A value of the polymod generator register: 30 bits (00_scope.md R9). -/
abbrev Residue := BitVec 30

end Sys2Proof
end

