-- ==== Sys2Proof/Config.lean ====
section
/-! DEFINITION. What is fixed for the machine: the constant tables GEN and CONST, the default alphabet order, the window's
base address, and the one value the spec states no result for (00_scope.md R2, R6, R7, R8, R13). -/

namespace Sys2Proof

/-- The encoding kind `K` (00_scope.md R13): 0 is Bech32, 1 is Bech32m. -/
inductive Kind where
  | bech32
  | bech32m
deriving DecidableEq, Repr

/-- The 1-bit value of a kind (00_scope.md R13). -/
def Kind.bit : Kind → BitVec 1
  | .bech32 => 0
  | .bech32m => 1

/-- The kind a 1-bit field names (00_scope.md R13). -/
def Kind.ofBit (k : BitVec 1) : Kind :=
  if k = 0 then .bech32 else .bech32m

namespace Config

/-- The identity string of the hardware (00_scope.md R2). -/
def identity : String := "B32E-r1"

/-- The generator table `GEN[0]` to `GEN[4]` (00_scope.md R8). -/
def gen : Fin 5 → Residue
  | 0 => 0x3b6a57b2
  | 1 => 0x26508e6d
  | 2 => 0x1ea119fa
  | 3 => 0x3d4233dd
  | 4 => 0x2a1462b3

/-- The variant constants `CONST[K]` (00_scope.md R8). -/
def const : Kind → Residue
  | .bech32 => 0x00000001
  | .bech32m => 0x2bc830a3

/-- The initial value of the generator register (00_scope.md R8). -/
def initialResidue : Residue := 1

/-- The 32 characters an alphabet is a permutation of: the digits and lowercase letters less `1`, `b`, `i` and `o`
(00_scope.md R6), as ASCII codes (R10; assumption log 10). -/
def legalCharacters : List Byte :=
  [0x30, 0x32, 0x33, 0x34, 0x35, 0x36, 0x37, 0x38, 0x39, 0x61, 0x63, 0x64, 0x65, 0x66, 0x67, 0x68,
   0x6a, 0x6b, 0x6c, 0x6d, 0x6e, 0x70, 0x71, 0x72, 0x73, 0x74, 0x75, 0x76, 0x77, 0x78, 0x79, 0x7a]

/-- PRESUMED (assumption log 3): the default alphabet order `qpzry9x8gf2tvdw0s3jn54khce6mua7l` of 00_scope.md R6 and
41_charset.md R100, which the spec itself marks as general knowledge. -/
def defaultCharset : Vector Byte 32 :=
  #v[0x71, 0x70, 0x7a, 0x72, 0x79, 0x39, 0x78, 0x38, 0x67, 0x66, 0x32, 0x74, 0x76, 0x64, 0x77, 0x30,
     0x73, 0x33, 0x6a, 0x6e, 0x35, 0x34, 0x6b, 0x68, 0x63, 0x65, 0x36, 0x6d, 0x75, 0x61, 0x37, 0x6c]

/-- DESIGN CHOICE (assumption log 4): the open platform parameter `BASE` (00_scope.md R7), as a multiple of 32. -/
opaque baseIndex : Nat

/-- The bus address of the register window, a multiple of 32 (00_scope.md R7). -/
def base : Nat := 32 * baseIndex

/-- DESIGN CHOICE (assumption log 5): the bits a padded CV.FLUSH emits when `NBITS > toBits`, where 42_bitconv.md R124
shifts left by a negative amount and so states no result. No run from reset reaches such a state (10_state.md R32).
Arguments: ACC, NBITS and CFG_T. -/
opaque unstatedPadGroup : BitVec 8 → BitVec 4 → BitVec 3 → Nat

end Config

end Sys2Proof
end

