-- ==== Sys2Proof/Syntax.lean ====
section
/-! DEFINITION. The 13 commands (30_encoding.md R84) and the assembler's lines (R89, R90, R91). -/

namespace Sys2Proof

/-- A command of the Bech32 engine, one constructor per row of 30_encoding.md R84, with the operands of R83 at the width
of their fields. -/
inductive Instr where
  /-- NOP, format N. -/
  | nop
  /-- RST, format N. -/
  | rst
  /-- CS.ENC, format S. -/
  | csEnc (v : Symbol)
  /-- CS.DEC, format B. -/
  | csDec (b : Byte)
  /-- CV.INIT, format C: `f` is fromBits - 1, `t` is toBits - 1, `p` is pad. -/
  | cvInit (f t : BitVec 3) (p : Bool)
  /-- CV.PUSH, format B. -/
  | cvPush (b : Byte)
  /-- CV.FLUSH, format N. -/
  | cvFlush
  /-- CK.INIT, format N. -/
  | ckInit
  /-- CK.SYM, format S. -/
  | ckSym (v : Symbol)
  /-- CK.HRPHI, format B. -/
  | ckHrpHi (b : Byte)
  /-- CK.HRPLO, format B. -/
  | ckHrpLo (b : Byte)
  /-- CK.FINISH, format K. -/
  | ckFinish (k : Kind)
  /-- CK.VERIFY, format N. -/
  | ckVerify
deriving DecidableEq, Repr

/-- One line of an assembly program, before its operands are checked (30_encoding.md R89 to R91). Operands are the numbers
as written; `CV.INIT` takes the widths themselves, 1 to 8. -/
inductive AsmLine where
  | nop
  | rst
  | csEnc (v : Nat)
  | csDec (b : Nat)
  | cvInit (fromBits toBits : Nat) (pad : Bool)
  | cvPush (b : Nat)
  | cvFlush
  | ckInit
  | ckSym (v : Nat)
  | ckHrpHi (b : Nat)
  | ckHrpLo (b : Nat)
  | ckFinish (k : Nat)
  | ckVerify
  /-- `.word w`: the word as it is, the only way to write an illegal command (R89). -/
  | word (w : Nat)
  /-- `CK.HRPSEP` (R90). -/
  | ckHrpSep
  /-- `CK.FINISH.B32` (R90). -/
  | ckFinishB32
  /-- `CK.FINISH.B32M` (R90). -/
  | ckFinishB32m
  /-- `CV.INIT85` (R90). -/
  | cvInit85
  /-- `CV.INIT58` (R90). -/
  | cvInit58
  /-- The macro `CK.HRP "s"` on the bytes of `s` (R91). -/
  | ckHrp (s : List Nat)
  /-- `read REG`: a host read of the window register at a byte offset, which is no command (R89). -/
  | read (offset : Nat)
deriving DecidableEq, Repr

end Sys2Proof
end

