-- ==== Sys2Proof/WellFormed.lean ====
section
/-! DEFINITION. The checks on what a user writes: the alphabet parameter (00_scope.md R6) and an assembler line
(30_encoding.md R89). An `Instr` needs no check: every operand has exactly the width of its field, and every value of a
field is legal (30_encoding.md R83, 10_state.md R26). -/

namespace Sys2Proof

/-- 00_scope.md R6: the 32 entries are distinct, and each is one of the 32 legal characters. -/
abbrev CharsetWellFormed (rom : Vector Byte 32) : Prop :=
  rom.toList.Nodup ∧ ∀ c ∈ rom.toList, c ∈ Config.legalCharacters

/-- 30_encoding.md R89: every operand of the line is in its range. -/
def AsmLine.wellFormed : AsmLine → Bool
  | .csEnc v => v < 32
  | .csDec b => b < 256
  | .cvInit fromBits toBits _ => 1 ≤ fromBits && fromBits ≤ 8 && 1 ≤ toBits && toBits ≤ 8
  | .cvPush b => b < 256
  | .ckSym v => v < 32
  | .ckHrpHi b => b < 256
  | .ckHrpLo b => b < 256
  | .ckFinish k => k < 2
  | .word w => w < 2 ^ 32
  | .ckHrp s => s.all (· < 256)
  | .read offset => offset < 32 && offset % 4 == 0
  | .nop => true
  | .rst => true
  | .cvFlush => true
  | .ckInit => true
  | .ckVerify => true
  | .ckHrpSep => true
  | .ckFinishB32 => true
  | .ckFinishB32m => true
  | .cvInit85 => true
  | .cvInit58 => true

end Sys2Proof
end

