-- ==== Sys2Proof/Decode.lean ====
section
/-! DEFINITION. Decoding a command word by the table of 30_encoding.md R84 and R85, total on all `2^32` words, and the
encoder by the formats of R82. -/

namespace Sys2Proof

/-- Why a word is illegal: the two classes of 30_encoding.md R86. Both raise the one error IllegalCommand (R202;
assumption log 15). -/
inductive Illegal where
  /-- R86 item 1: the opcode is none of the 13 of R84. -/
  | unassignedOpcode
  /-- R86 item 2: the opcode is assigned and a reserved-zero bit of its format is 1. -/
  | reservedBitSet
deriving DecidableEq, Repr

/-- The answer of the decoder: "every word is one command or illegal" (30_encoding.md R85). -/
inductive Decoded where
  | command (i : Instr)
  | illegal (why : Illegal)
deriving DecidableEq, Repr

/-- The command a decoder's answer holds, if any. -/
def Decoded.toOption : Decoded → Option Instr
  | .command i => some i
  | .illegal _ => none

/-- A row of the table of 30_encoding.md R84, with the operands its format reads from the word (R82, R83). -/
structure Row where
  mask : Word
  pattern : Word
  operands : Word → Instr

/-- `OP = w[31:24]` (30_encoding.md R81). -/
def fieldOP (w : Word) : BitVec 8 := w.extractLsb' 24 8

/-- `V = w[4:0]` (30_encoding.md R83). -/
def fieldV (w : Word) : Symbol := w.extractLsb' 0 5

/-- `B = w[7:0]` (30_encoding.md R83). -/
def fieldB (w : Word) : Byte := w.extractLsb' 0 8

/-- `K = w[0]` (30_encoding.md R83). -/
def fieldK (w : Word) : Kind := Kind.ofBit (w.extractLsb' 0 1)

/-- `F = w[2:0]` (30_encoding.md R82, R83). -/
def fieldF (w : Word) : BitVec 3 := w.extractLsb' 0 3

/-- `T = w[6:4]` (30_encoding.md R82, R83). -/
def fieldT (w : Word) : BitVec 3 := w.extractLsb' 4 3

/-- `P = w[8]` (30_encoding.md R82, R83). -/
def fieldP (w : Word) : Bool := w.getLsbD 8

/-- The opcode map of 30_encoding.md R84, row by row. -/
def opcodeTable : List Row :=
  [{ mask := 0xFFFFFFFF, pattern := 0x00000000, operands := fun _ => .nop },
   { mask := 0xFFFFFFFF, pattern := 0x01000000, operands := fun _ => .rst },
   { mask := 0xFFFFFFE0, pattern := 0x10000000, operands := fun w => .csEnc (fieldV w) },
   { mask := 0xFFFFFF00, pattern := 0x11000000, operands := fun w => .csDec (fieldB w) },
   { mask := 0xFFFFFE88, pattern := 0x20000000, operands := fun w => .cvInit (fieldF w) (fieldT w) (fieldP w) },
   { mask := 0xFFFFFF00, pattern := 0x21000000, operands := fun w => .cvPush (fieldB w) },
   { mask := 0xFFFFFFFF, pattern := 0x22000000, operands := fun _ => .cvFlush },
   { mask := 0xFFFFFFFF, pattern := 0x30000000, operands := fun _ => .ckInit },
   { mask := 0xFFFFFFE0, pattern := 0x31000000, operands := fun w => .ckSym (fieldV w) },
   { mask := 0xFFFFFF00, pattern := 0x32000000, operands := fun w => .ckHrpHi (fieldB w) },
   { mask := 0xFFFFFF00, pattern := 0x33000000, operands := fun w => .ckHrpLo (fieldB w) },
   { mask := 0xFFFFFFFE, pattern := 0x34000000, operands := fun w => .ckFinish (fieldK w) },
   { mask := 0xFFFFFFFF, pattern := 0x35000000, operands := fun _ => .ckVerify }]

/-- `(w & mask) = match` (30_encoding.md R85). -/
def Row.holds (r : Row) (w : Word) : Bool := (w &&& r.mask) == r.pattern

/-- Whether the word's opcode is one of the 13 (30_encoding.md R86). -/
def opcodeAssigned (w : Word) : Bool :=
  opcodeTable.any fun r => fieldOP r.pattern == fieldOP w

/-- 30_encoding.md R85: the row with `(w & mask) = match`, or illegal by R86. -/
def decode (w : Word) : Decoded :=
  match opcodeTable.find? (fun r => r.holds w) with
  | some r => .command (r.operands w)
  | none => .illegal (if opcodeAssigned w then .reservedBitSet else .unassignedOpcode)

/-- The opcode of a command (30_encoding.md R84). -/
def Instr.opcode : Instr → BitVec 8
  | .nop => 0x00
  | .rst => 0x01
  | .csEnc _ => 0x10
  | .csDec _ => 0x11
  | .cvInit _ _ _ => 0x20
  | .cvPush _ => 0x21
  | .cvFlush => 0x22
  | .ckInit => 0x30
  | .ckSym _ => 0x31
  | .ckHrpHi _ => 0x32
  | .ckHrpLo _ => 0x33
  | .ckFinish _ => 0x34
  | .ckVerify => 0x35

/-- Format N of 30_encoding.md R82: the opcode in bits 31..24, every other bit zero. -/
def formatN (op : BitVec 8) : Word := op.setWidth 32 <<< 24

/-- Format S of 30_encoding.md R82. -/
def formatS (op : BitVec 8) (v : Symbol) : Word := formatN op ||| v.setWidth 32

/-- Format B of 30_encoding.md R82. -/
def formatB (op : BitVec 8) (b : Byte) : Word := formatN op ||| b.setWidth 32

/-- Format K of 30_encoding.md R82. -/
def formatK (op : BitVec 8) (k : Kind) : Word := formatN op ||| k.bit.setWidth 32

/-- Format C of 30_encoding.md R82. -/
def formatC (op : BitVec 8) (f t : BitVec 3) (p : Bool) : Word :=
  formatN op ||| ((BitVec.ofBool p).setWidth 32 <<< 8) ||| (t.setWidth 32 <<< 4) ||| f.setWidth 32

/-- The word of a command (30_encoding.md R82, R84). -/
def encode (i : Instr) : Word :=
  match i with
  | .nop => formatN i.opcode
  | .rst => formatN i.opcode
  | .csEnc v => formatS i.opcode v
  | .csDec b => formatB i.opcode b
  | .cvInit f t p => formatC i.opcode f t p
  | .cvPush b => formatB i.opcode b
  | .cvFlush => formatN i.opcode
  | .ckInit => formatN i.opcode
  | .ckSym v => formatS i.opcode v
  | .ckHrpHi b => formatB i.opcode b
  | .ckHrpLo b => formatB i.opcode b
  | .ckFinish k => formatK i.opcode k
  | .ckVerify => formatN i.opcode

/-- The command the decoder reads from a word numbered as spec/opcode_table.json numbers it (bit 0 of the one 32-bit word
is the least significant bit, 30_encoding.md R80). -/
def decodeTableWord (nbits w : Nat) : Option Instr :=
  (decode (BitVec.ofNat 32 (w % 2 ^ nbits))).toOption

end Sys2Proof
end

