-- ==== Sys2Proof/Machine/State.lean ====
section
/-! DEFINITION. The state of the block (10_state.md R20), the accesses that reach its ports (20_memory.md R52, R53), and
why a step can stop: it cannot. -/

namespace Sys2Proof.Machine

/-- The error codes of 60_exceptions.md R201, by name. -/
inductive ErrorCode where
  | none
  | illegalCommand
  | inputRange
  | invalidPadding
  | notBech32Character
  | converterAborted
deriving DecidableEq, Repr

/-- One host access at the ports of 20_memory.md R52, with `sel` = 1. -/
structure Access where
  we : Bool
  addr : BitVec 5
  be : BitVec 4
  wdata : Word
deriving DecidableEq, Repr

/-- What reaches the ports next (20_memory.md R52, 92_eei_decisions.md D39). -/
inductive Event where
  /-- `rst` = 0 and `sel` = 0: nothing is asked of the block. -/
  | idle
  /-- `rst` = 1, with the access that was in progress and is abandoned, if there was one (70_reset_and_hazards.md R231). -/
  | reset (inProgress : Option Access)
  /-- An access that completes. -/
  | access (a : Access)
deriving DecidableEq, Repr

/-- The block's answer to an access (92_eei_decisions.md D39). -/
inductive Response where
  /-- `berr` = 0 and `rdata` = `v`, to a read. -/
  | data (v : Word)
  /-- `berr` = 0, to a write. -/
  | ack
  /-- `berr` = 1 and `rdata` = 0 (20_memory.md R57). -/
  | busError
deriving DecidableEq, Repr

/-- The block's registers (10_state.md R20), its alphabet ROM (R40), and, as the model's own fields, the events still to
come and the last answer. -/
structure State where
  /-- `CHK`, the polymod generator register (10_state.md R23). -/
  chk : BitVec 30
  /-- `ACC`, the converter accumulator (R24). -/
  acc : BitVec 8
  /-- `NBITS`, the count of buffered bits (R25). -/
  nbits : BitVec 4
  /-- `CFG_F`, fromBits - 1 (R26). -/
  cfgF : BitVec 3
  /-- `CFG_T`, toBits - 1 (R26). -/
  cfgT : BitVec 3
  /-- `CFG_P`, pad (R26). -/
  cfgP : Bool
  /-- `CVERR`, the converter's first error (R27). -/
  cverr : BitVec 2
  /-- `PADX`, too many leftover bits (R28). -/
  padx : Bool
  /-- `PADNZ`, non-zero leftover bits (R28). -/
  padnz : Bool
  /-- `MATCH`, the result of the last CK.VERIFY (R29). -/
  matched : BitVec 2
  /-- `ERR`, the error code of the last command (R30). -/
  err : BitVec 4
  /-- `RESULT`, the last output word (R31). -/
  result : Word
  /-- The alphabet ROM `CHARSET` (R40), a parameter that nothing writes (assumption log 3). -/
  charset : Vector Byte 32
  /-- The model's own: the events still to come, oldest first (assumption log 1). -/
  pending : List Event
  /-- The model's own: what the ports answered in the last step (assumption log 2). -/
  response : Option Response
deriving DecidableEq, Repr

/-- Why the machine stops: the block has no trap (60_exceptions.md R205) and no access or command stops it
(20_memory.md R53, 30_encoding.md R85), so there is no constructor. -/
inductive Fault where
deriving DecidableEq, Repr

/-- Why the model gives no meaning. -/
inductive Refusal where
  /-- An arm of exec that has no meaning yet. Raised by no arm; it would be safe, since nothing could be proved of the
  instruction. -/
  | notModelled (mnemonic : String)
deriving DecidableEq, Repr

/-- The outcome of one command or one step. -/
abbrev StepOutcome := Host.Outcome State Fault Refusal

/-- The machine right after reset (10_state.md R42), with the default alphabet (assumption log 3) and no event pending
(assumption logs 1 and 2). -/
def State.reset : State where
  chk := 1
  acc := 0
  nbits := 0
  cfgF := 7
  cfgT := 4
  cfgP := true
  cverr := 0
  padx := false
  padnz := false
  matched := 0
  err := 0
  result := 0
  charset := Config.defaultCharset
  pending := []
  response := none

end Sys2Proof.Machine
end

