-- ==== Sys2Proof/Machine/Operands.lean ====
section
/-! DEFINITION. The values a command computes from its operand fields and from the configuration: converter widths
(10_state.md R26), the two parts of an HRP byte (43_checksum.md R153, R154), and the alphabet's two maps
(41_charset.md R100, R101). -/

namespace Sys2Proof.Machine

/-- `from = CFG_F + 1` (42_bitconv.md R120). -/
def State.fromBits (s : State) : Nat := s.cfgF.toNat + 1

/-- `to = CFG_T + 1` (42_bitconv.md R120). -/
def State.toBits (s : State) : Nat := s.cfgT.toNat + 1

/-- `mask(n) = 2^n - 1` (42_bitconv.md R120). -/
def lowMask (n : Nat) : Nat := 2 ^ n - 1

/-- `B >> 5`, the high part of an HRP byte, as a symbol (43_checksum.md R153). -/
def hrpHigh (b : Byte) : Symbol := (b >>> 5).setWidth 5

/-- `B & 31`, the low part of an HRP byte, as a symbol (43_checksum.md R154). -/
def hrpLow (b : Byte) : Symbol := (b &&& 31).setWidth 5

/-- `CHARSET[V]` (41_charset.md R100). -/
def charAt (rom : Vector Byte 32) (v : Symbol) : Byte := rom.get v.toFin

/-- `fold(b)`: ASCII uppercase letters to lowercase, every other byte as it is (41_charset.md R101). -/
def foldCase (b : Byte) : Byte :=
  if 0x41 ≤ b.toNat ∧ b.toNat ≤ 0x5A then b + 0x20 else b

/-- The 32 symbol values, in order. -/
def allSymbols : List Symbol := (List.range 32).map (BitVec.ofNat 5)

/-- `index(b)` when `member(b)`, and none otherwise (41_charset.md R101): the symbol whose character is `fold(b)`. Where
the entries of the ROM are not distinct (00_scope.md R6 excludes it) it is the least such symbol (assumption log 14). -/
def charIndex (rom : Vector Byte 32) (b : Byte) : Option Symbol :=
  allSymbols.find? fun i => charAt rom i == foldCase b

/-- `member(b)` (41_charset.md R101). -/
def isMember (rom : Vector Byte 32) (b : Byte) : Bool := (charIndex rom b).isSome

end Sys2Proof.Machine
end

