-- ==== Sys2Proof/Machine/Ops.lean ====
section
/-! DEFINITION. The named register updates, ending a command, raising an error (which is all this block has for an
exception, 60_exceptions.md R200, R205), and reset (10_state.md R42). -/

namespace Sys2Proof.Machine

/-- The 4-bit code of an error (60_exceptions.md R201). -/
def ErrorCode.code : ErrorCode → BitVec 4
  | .none => 0
  | .illegalCommand => 1
  | .inputRange => 2
  | .invalidPadding => 3
  | .notBech32Character => 4
  | .converterAborted => 5

/-- `ERR <- code`. -/
def State.setErr (s : State) (e : BitVec 4) : State := { s with err := e }

/-- `RESULT <- r`. -/
def State.setResult (s : State) (r : Word) : State := { s with result := r }

/-- `CHK <- c`. -/
def State.setChk (s : State) (c : Residue) : State := { s with chk := c }

/-- `MATCH <- m`. -/
def State.setMatched (s : State) (m : BitVec 2) : State := { s with matched := m }

/-- `ACC <- a; NBITS <- n`. -/
def State.setBuffer (s : State) (a : BitVec 8) (n : BitVec 4) : State := { s with acc := a, nbits := n }

/-- `CFG_F <- f; CFG_T <- t; CFG_P <- p`. -/
def State.setConfig (s : State) (f t : BitVec 3) (p : Bool) : State := { s with cfgF := f, cfgT := t, cfgP := p }

/-- `CVERR <- e; PADX <- x; PADNZ <- nz`. -/
def State.setConverterError (s : State) (e : BitVec 2) (x nz : Bool) : State :=
  { s with cverr := e, padx := x, padnz := nz }

/-- The events still to come. -/
def State.setPending (s : State) (es : List Event) : State := { s with pending := es }

/-- The answer of the ports. -/
def State.setResponse (s : State) (r : Option Response) : State := { s with response := r }

/-- Every register at its reset value (10_state.md R42). The alphabet ROM is not touched (10_state.md R40), nor what the
environment will do next. -/
def State.resetRegisters (s : State) : State :=
  { State.reset with charset := s.charset, pending := s.pending, response := s.response }

/-- A command that ends without error: `ERR <- 0` (60_exceptions.md R200). -/
def complete (s : State) : StepOutcome := .next (s.setErr ErrorCode.none.code)

/-- `raise E` (00_scope.md R12, 60_exceptions.md R201): ERR takes the code of E and the command ends. `s` is the state
with the effects the command's rule lists for that error. Nothing is saved and no control is transferred
(60_exceptions.md R205), so there is no return from it either: the next CMD write overwrites ERR (R206). -/
def raise (e : ErrorCode) (s : State) : StepOutcome := .next (s.setErr e.code)

end Sys2Proof.Machine
end

