-- ==== Sys2Proof/Machine/Charset.lean ====
section
/-! DEFINITION. The charset commands CS.ENC and CS.DEC (41_charset.md). -/

namespace Sys2Proof.Machine

/-- `{1'b1, 3'b000, index}`: CS.DEC's RESULT for a member (41_charset.md R103). -/
def memberWord (i : Symbol) : Word := (1#1 ++ 0#3 ++ i).setWidth 32

/-- CS.ENC (41_charset.md R102). -/
def execCsEnc (v : Symbol) (s : State) : StepOutcome :=
  complete (s.setResult ((charAt s.charset v).setWidth 32))

/-- CS.DEC (41_charset.md R103). -/
def execCsDec (b : Byte) (s : State) : StepOutcome :=
  match charIndex s.charset b with
  | some i => complete (s.setResult (memberWord i))
  | none => raise .notBech32Character (s.setResult 0)

end Sys2Proof.Machine
end

