-- ==== Sys2Proof/Machine/Flags.lean ====
section
/-! DEFINITION. Every flag computation (10_state.md R43): the padding conditions behind PADX and PADNZ (42_bitconv.md R125)
and the match code behind MATCH (43_checksum.md R158). -/

namespace Sys2Proof.Machine

/-- `PADX_cond`: too many leftover bits (42_bitconv.md R125). -/
def State.tooManyLeft (s : State) : Bool := s.fromBits ≤ s.nbits.toNat

/-- `PADNZ_cond`: non-zero leftover bits (42_bitconv.md R125). -/
def State.nonZeroLeft (s : State) : Bool := s.acc != 0

/-- `PadInvalid()` (42_bitconv.md R125). -/
def State.padInvalid (s : State) : Bool := s.tooManyLeft || s.nonZeroLeft

/-- CVERR's code for an out-of-range input (10_state.md R27). -/
def cverrInputRange : BitVec 2 := 1

/-- CVERR's code for an invalid padding (10_state.md R27). -/
def cverrInvalidPadding : BitVec 2 := 2

/-- The match code of a residue: 1 is Bech32, 2 is Bech32m, 0 is no match (43_checksum.md R158). -/
def matchCode (c : Residue) : BitVec 2 :=
  if c = Config.const .bech32 then 1
  else if c = Config.const .bech32m then 2
  else 0

end Sys2Proof.Machine
end

