-- ==== Sys2Proof/Machine/Checksum.lean ====
section
/-! DEFINITION. The checksum commands CK.INIT, CK.SYM, CK.HRPHI, CK.HRPLO, CK.FINISH and CK.VERIFY (43_checksum.md). -/

namespace Sys2Proof.Machine

/-- `step(c, v)` (43_checksum.md R150). -/
def polymodStep (c : Residue) (v : Symbol) : Residue :=
  let top : BitVec 5 := c.extractLsb' 25 5
  let c2 : Residue := ((c &&& 0x1FFFFFF) <<< 5) ^^^ v.setWidth 30
  ([0, 1, 2, 3, 4] : List (Fin 5)).foldl (fun x (i : Fin 5) => if top.getLsbD i.val then x ^^^ Config.gen i else x) c2

/-- `step` over `n` zeros (43_checksum.md R156). -/
def polymodZeros : Nat → Residue → Residue
  | 0, c => c
  | n + 1, c => polymodZeros n (polymodStep c 0)

/-- A command that feeds one symbol to CHK (43_checksum.md R152 to R154). -/
def feedSymbol (v : Symbol) (s : State) : StepOutcome := complete (s.setChk (polymodStep s.chk v))

/-- CK.INIT (43_checksum.md R151). -/
def execCkInit (s : State) : StepOutcome := complete ((s.setChk Config.initialResidue).setMatched 0)

/-- CK.SYM (43_checksum.md R152). -/
def execCkSym (v : Symbol) (s : State) : StepOutcome := feedSymbol v s

/-- CK.HRPHI (43_checksum.md R153). -/
def execCkHrpHi (b : Byte) (s : State) : StepOutcome := feedSymbol (hrpHigh b) s

/-- CK.HRPLO (43_checksum.md R154). -/
def execCkHrpLo (b : Byte) (s : State) : StepOutcome := feedSymbol (hrpLow b) s

/-- CK.FINISH (43_checksum.md R156). -/
def execCkFinish (k : Kind) (s : State) : StepOutcome :=
  let c := polymodZeros 6 s.chk
  complete ((s.setChk c).setResult ((c ^^^ Config.const k).setWidth 32))

/-- CK.VERIFY (43_checksum.md R158). -/
def execCkVerify (s : State) : StepOutcome :=
  let m := matchCode s.chk
  complete ((s.setMatched m).setResult (m.setWidth 32))

end Sys2Proof.Machine
end

