-- ==== Sys2Proof/Machine/Control.lean ====
section
/-! DEFINITION. The control commands NOP and RST (44_control.md). -/

namespace Sys2Proof.Machine

/-- NOP (44_control.md R180). -/
def execNop (s : State) : StepOutcome := complete s

/-- RST (44_control.md R181): the reset values hold ERR = 0 already. -/
def execRst (s : State) : StepOutcome := .next s.resetRegisters

end Sys2Proof.Machine
end

