-- ==== Sys2Proof/Machine/Converter.lean ====
section
/-! DEFINITION. The bit converter commands CV.INIT, CV.PUSH and CV.FLUSH (42_bitconv.md). -/

namespace Sys2Proof.Machine

/-- The converter's RESULT, `{12'b0, COUNT, 1'b0, OUT}` (42_bitconv.md R123). -/
def groupsWord (count out : Nat) : Word := (BitVec.ofNat 4 count ++ 0#1 ++ BitVec.ofNat 15 out).setWidth 32

/-- A CV.PUSH or CV.FLUSH on a latched error (42_bitconv.md R127): `RESULT <- 0` and ConverterAborted. -/
def converterAborted (s : State) : StepOutcome := raise .converterAborted (s.setResult 0)

/-- CV.INIT (42_bitconv.md R121). -/
def execCvInit (f t : BitVec 3) (p : Bool) (s : State) : StepOutcome :=
  complete (((s.setConfig f t p).setBuffer 0 0).setConverterError 0 false false)

/-- The buffer and RESULT after an accepted input (42_bitconv.md R122, the part after the two checks). The arithmetic is
exact on Nat and narrowed at the end, as the rule's field widths say (assumption log 6). -/
def pushAccepted (b : Byte) (s : State) : State :=
  let a := (s.acc.toNat <<< s.fromBits) ||| b.toNat
  let n := s.nbits.toNat + s.fromBits
  let c := n / s.toBits
  let n2 := n - c * s.toBits
  let out := (a >>> n2) &&& lowMask (c * s.toBits)
  (s.setBuffer (BitVec.ofNat 8 (a &&& lowMask n2)) (BitVec.ofNat 4 n2)).setResult (groupsWord c out)

/-- CV.PUSH (42_bitconv.md R122). -/
def execCvPush (b : Byte) (s : State) : StepOutcome :=
  if s.cverr ≠ 0 then converterAborted s
  else if b.toNat > lowMask s.fromBits then
    raise .inputRange ((s.setConverterError cverrInputRange s.padx s.padnz).setResult 0)
  else complete (pushAccepted b s)

/-- The group a padded CV.FLUSH emits, `(ACC << (to - NBITS)) & mask(to)` (42_bitconv.md R124). Where `to < NBITS` the rule
states no value: a free one, kept to the width the rule gives the group (assumption log 5). -/
def padGroup (s : State) : Nat :=
  (if s.nbits.toNat ≤ s.toBits then s.acc.toNat <<< (s.toBits - s.nbits.toNat)
   else Config.unstatedPadGroup s.acc s.nbits s.cfgT) &&& lowMask s.toBits

/-- CV.FLUSH's RESULT with pad = true (42_bitconv.md R124). -/
def padResult (s : State) : Word :=
  if s.nbits.toNat > 0 then groupsWord 1 (padGroup s) else 0

/-- CV.FLUSH (42_bitconv.md R124; the failing case is R126). -/
def execCvFlush (s : State) : StepOutcome :=
  if s.cverr ≠ 0 then converterAborted s
  else if s.cfgP then complete ((s.setResult (padResult s)).setBuffer 0 0)
  else if s.padInvalid then
    raise .invalidPadding ((s.setConverterError cverrInvalidPadding s.tooManyLeft s.nonZeroLeft).setResult 0)
  else complete ((s.setResult 0).setBuffer 0 0)

end Sys2Proof.Machine
end

