-- ==== Sys2Proof/Machine/Dispatch.lean ====
section
/-! DEFINITION. One arm per command (30_encoding.md R84). -/

namespace Sys2Proof.Machine

/-- The effect of a command on the block, without the access that carries it. -/
def exec (i : Instr) (s : State) : Host.Outcome State Fault Refusal :=
  match i with
  | .nop => Sys2Proof.Machine.execNop s
  | .rst => Sys2Proof.Machine.execRst s
  | .csEnc v => Sys2Proof.Machine.execCsEnc v s
  | .csDec b => Sys2Proof.Machine.execCsDec b s
  | .cvInit f t p => Sys2Proof.Machine.execCvInit f t p s
  | .cvPush b => Sys2Proof.Machine.execCvPush b s
  | .cvFlush => Sys2Proof.Machine.execCvFlush s
  | .ckInit => Sys2Proof.Machine.execCkInit s
  | .ckSym v => Sys2Proof.Machine.execCkSym v s
  | .ckHrpHi b => Sys2Proof.Machine.execCkHrpHi b s
  | .ckHrpLo b => Sys2Proof.Machine.execCkHrpLo b s
  | .ckFinish k => Sys2Proof.Machine.execCkFinish k s
  | .ckVerify => Sys2Proof.Machine.execCkVerify s

end Sys2Proof.Machine
end

