-- ==== Sys2Proof/Machine/Window.lean ====
section
/-! DEFINITION. The register window as the host reads it (10_state.md R33 to R39, 20_memory.md R51, R54). -/

namespace Sys2Proof.Machine

/-- STATUS = `{12'b0, PADNZ, PADX, CVERR, 10'b0, MATCH, ERR}` (10_state.md R33). -/
def State.statusWord (s : State) : Word :=
  (BitVec.ofBool s.padnz ++ BitVec.ofBool s.padx ++ s.cverr ++ 0#10 ++ s.matched ++ s.err).setWidth 32

/-- CHK as a window word, bits 31..30 zero (10_state.md R36). -/
def State.chkWord (s : State) : Word := s.chk.setWidth 32

/-- CVSTATE = `{20'b0, NBITS, ACC}` (10_state.md R34). -/
def State.cvstateWord (s : State) : Word := (s.nbits ++ s.acc).setWidth 32

/-- CVCFG (10_state.md R35). -/
def State.cvcfgWord (s : State) : Word :=
  (BitVec.ofBool s.cfgP ++ 0#1 ++ s.cfgT ++ 0#1 ++ s.cfgF).setWidth 32

/-- `ReadReg(off)` for a word-aligned offset (20_memory.md R51, R54): CMD and the two reserved offsets read 0
(10_state.md R38, R39). -/
def readReg (off : BitVec 5) (s : State) : Word :=
  match off.toNat / 4 with
  | 1 => s.result
  | 2 => s.statusWord
  | 3 => s.chkWord
  | 4 => s.cvstateWord
  | 5 => s.cvcfgWord
  | _ => 0

end Sys2Proof.Machine
end

