-- ==== Sys2Proof/Machine/Bus.lean ====
section
/-! DEFINITION. What one event at the ports does (20_memory.md R52 to R58, 70_reset_and_hazards.md R230, R231), and how a
host's accesses become events. -/

namespace Sys2Proof.Machine

/-- An access is admitted when all byte enables are set and the offset is a multiple of 4 (20_memory.md R53). -/
def Access.admitted (a : Access) : Bool := a.be == 0b1111 && a.addr.extractLsb' 0 2 == 0

/-- `Execute(w)` (30_encoding.md R85): the command the word decodes to, or IllegalCommand (60_exceptions.md R202). -/
def execute (w : Word) (s : State) : StepOutcome :=
  match decode w with
  | .command i => exec i s
  | .illegal _ => raise .illegalCommand s

/-- The access completes with this response. -/
def respond (r : Response) (s : State) : State := s.setResponse (some r)

/-- A write to CMD: the word is executed, then the write is acknowledged (20_memory.md R53, R55; a command error is never a
bus error, 60_exceptions.md R202). -/
def writeCommand (w : Word) (s : State) : StepOutcome :=
  match execute w s with
  | .next t => .next (respond .ack t)
  | .fault f => .fault f
  | .refused r => .refused r

/-- The block's step on one access (20_memory.md R53). -/
def performAccess (a : Access) (s : State) : StepOutcome :=
  if !a.admitted then .next (respond .busError s)
  else if !a.we then .next (respond (.data (readReg a.addr s)) s)
  else if a.addr = 0 then writeCommand a.wdata s
  else .next (respond .ack s)

/-- The block's step on one event. A reset replaces every register and answers no access, the abandoned one included
(70_reset_and_hazards.md R231; assumption log 8). In an idle slot the block holds its state (60_exceptions.md R214). -/
def performEvent (e : Event) (s : State) : StepOutcome :=
  match e with
  | .idle => .next (s.setResponse none)
  | .reset _ => .next (s.resetRegisters.setResponse none)
  | .access a => performAccess a s

/-- The next event is taken and performed; with none left the block is idle. -/
def takeEvent (s : State) : StepOutcome :=
  match s.pending with
  | [] => performEvent .idle s
  | e :: rest => performEvent e (s.setPending rest)

/-- The event at the ports of 20_memory.md R52 in one slot: `rst` wins, then `sel`. -/
def Event.ofPorts (rst sel we : Bool) (addr : BitVec 5) (be : BitVec 4) (wdata : Word) : Event :=
  let a : Access := { we := we, addr := addr, be := be, wdata := wdata }
  if rst then .reset (if sel then some a else none)
  else if sel then .access a
  else .idle

/-- `berr` of a response (20_memory.md R52, R57). -/
def Response.berr : Response → Bool
  | .data _ => false
  | .ack => false
  | .busError => true

/-- `rdata` of a response where it is valid (20_memory.md R52, R57; assumption log 12). -/
def Response.rdata : Response → Option Word
  | .data v => some v
  | .ack => none
  | .busError => some 0

/-- `ready`: an access completed in the last step (20_memory.md R52). -/
def State.ready (s : State) : Bool := s.response.isSome

/-- A whole-word host read of window offset `off` (00_scope.md R12, 20_memory.md R54). -/
def readEvent (off : BitVec 5) : Event := .access { we := false, addr := off, be := 0b1111, wdata := 0 }

/-- A whole-word host write of `w` to window offset `off` (00_scope.md R12, 20_memory.md R55, R56). -/
def writeEvent (off : BitVec 5) (w : Word) : Event := .access { we := true, addr := off, be := 0b1111, wdata := w }

/-- A host write of `w` to CMD (20_memory.md R55). -/
def commandEvent (w : Word) : Event := writeEvent 0 w

/-- `sel`: the bus address lies in `BASE` to `BASE + 0x1F` (20_memory.md R52, assumption log 4). -/
def windowSelects (busAddr : Nat) : Bool := Config.base ≤ busAddr && busAddr < Config.base + 32

/-- A host access at a bus address: to the window it is an access at the byte offset, elsewhere the block is not selected
(20_memory.md R51, R52). -/
def Event.atBusAddress (we : Bool) (busAddr : Nat) (be : BitVec 4) (wdata : Word) : Event :=
  Event.ofPorts false (windowSelects busAddr) we (BitVec.ofNat 5 (busAddr - Config.base)) be wdata

/-- `MemRead(a, 4)` (00_scope.md R12). -/
def memRead (busAddr : Nat) : Event := Event.atBusAddress false busAddr 0b1111 0

/-- `MemWrite(a, 4, w)` (00_scope.md R12). -/
def memWrite (busAddr : Nat) (w : Word) : Event := Event.atBusAddress true busAddr 0b1111 w

/-- Byte lane `j` of a data word, bits `8j+7:8j` (20_memory.md R58). -/
def byteLane (w : Word) (j : Fin 4) : Byte := w.extractLsb' (8 * j) 8

/-- The bus address of byte lane `j` of the word at offset `off` (20_memory.md R58). -/
def laneAddress (off : BitVec 5) (j : Fin 4) : Nat := Config.base + off.toNat + j

/-- The host's next access is a write of `w` to CMD (assumption log 9). -/
def State.placeCommand (s : State) (w : Word) : State := s.setPending (commandEvent w :: s.pending)

end Sys2Proof.Machine
end

