-- ==== Sys2Proof/Machine/Step.lean ====
section
/-! DEFINITION. One step of the machine: one event at the ports (92_eei_decisions.md D39). -/

namespace Sys2Proof.Machine

/-- One step: the next pending event is performed. -/
def step (s : State) : Host.Outcome State Fault Refusal := takeEvent s

/-- The command whose word is `w` (its low `nbits` bits) is the next thing the host writes to CMD (assumption log 9). -/
def State.withFetchWord (s : State) (nbits w : Nat) : State := s.placeCommand (BitVec.ofNat 32 (w % 2 ^ nbits))

end Sys2Proof.Machine
end

