-- ==== Sys2Proof/Machine/Assembler.lean ====
section
/-! DEFINITION. The assembler of 30_encoding.md R89 to R91: a line's text, the commands it expands to, and the host events
it stands for. It is a tool of the host: the machine never calls it (assumption log 16, 18). -/

namespace Sys2Proof.Machine

/-- A symbol written as a number. -/
def symbolOf (v : Nat) : Symbol := BitVec.ofNat 5 v

/-- A byte written as a number. -/
def byteOf (b : Nat) : Byte := BitVec.ofNat 8 b

/-- A width field, `f - 1` (30_encoding.md R89, format C). -/
def widthField (f : Nat) : BitVec 3 := BitVec.ofNat 3 (f - 1)

/-- A kind written as 0 or 1 (30_encoding.md R89, format K). -/
def kindOf (k : Nat) : Kind := if k = 0 then .bech32 else .bech32m

/-- The macro `CK.HRP "s"` (30_encoding.md R91): the high parts, the separator, the low parts. No case is folded. -/
def expandHrpMacro (s : List Byte) : List Instr :=
  s.map .ckHrpHi ++ [.ckSym 0] ++ s.map .ckHrpLo

/-- The commands of a line whose operands are in range (30_encoding.md R89 to R91). `.word` and `read` are no commands of
the table. -/
def expandLine : AsmLine → List Instr
  | .nop => [.nop]
  | .rst => [.rst]
  | .csEnc v => [.csEnc (symbolOf v)]
  | .csDec b => [.csDec (byteOf b)]
  | .cvInit f t p => [.cvInit (widthField f) (widthField t) p]
  | .cvPush b => [.cvPush (byteOf b)]
  | .cvFlush => [.cvFlush]
  | .ckInit => [.ckInit]
  | .ckSym v => [.ckSym (symbolOf v)]
  | .ckHrpHi b => [.ckHrpHi (byteOf b)]
  | .ckHrpLo b => [.ckHrpLo (byteOf b)]
  | .ckFinish k => [.ckFinish (kindOf k)]
  | .ckVerify => [.ckVerify]
  | .ckHrpSep => [.ckSym 0]
  | .ckFinishB32 => [.ckFinish .bech32]
  | .ckFinishB32m => [.ckFinish .bech32m]
  | .cvInit85 => [.cvInit 7 4 true]
  | .cvInit58 => [.cvInit 4 7 false]
  | .ckHrp s => expandHrpMacro (s.map byteOf)
  | .word _ => []
  | .read _ => []

/-- The command words of a line, or none where an operand is out of its range: "an assembly error: it never yields an
encoding" (30_encoding.md R89). -/
def lineWords (l : AsmLine) : Option (List Word) :=
  if l.wellFormed then
    match l with
    | .word w => some [BitVec.ofNat 32 w]
    | _ => some ((expandLine l).map encode)
  else none

/-- The host accesses of a line: its words written to CMD in order, or the read it denotes (30_encoding.md R89). -/
def lineEvents (l : AsmLine) : Option (List Event) :=
  match lineWords l with
  | none => none
  | some ws =>
    match l with
    | .read offset => some [readEvent (BitVec.ofNat 5 offset)]
    | _ => some (ws.map commandEvent)

/-- A token of a line's text. -/
inductive Token where
  | word (cs : List Char)
  | char (c : Char)
  | str (cs : List Char)
  | comma
deriving DecidableEq, Repr

/-- Where the scan of a line stands: in plain text, in a string, after an opening quote, after a quoted character. -/
inductive LexMode where
  | plain (cur : List Char)
  | str (cur : List Char)
  | quote
  | quoted (c : Char)
deriving DecidableEq, Repr

/-- The word read so far, if any. -/
def pendingWord (cur : List Char) : List Token :=
  if cur.isEmpty then [] else [.word cur.reverse]

/-- The tokens of a line. `;` starts a comment outside a literal (30_encoding.md R89). -/
def tokens : LexMode → List Char → Option (List Token)
  | .plain cur, [] => some (pendingWord cur)
  | .str _, [] => none
  | .quote, [] => none
  | .quoted _, [] => none
  | .plain cur, c :: rest =>
    if c = ';' then some (pendingWord cur)
    else if c = '\'' then (tokens .quote rest).map (pendingWord cur ++ ·)
    else if c = '"' then (tokens (.str []) rest).map (pendingWord cur ++ ·)
    else if c = ',' then (tokens (.plain []) rest).map (pendingWord cur ++ [Token.comma] ++ ·)
    else if c = ' ' ∨ c = '\t' then (tokens (.plain []) rest).map (pendingWord cur ++ ·)
    else tokens (.plain (c :: cur)) rest
  | .str cur, c :: rest =>
    if c = '"' then (tokens (.plain []) rest).map (Token.str cur.reverse :: ·)
    else tokens (.str (c :: cur)) rest
  | .quote, c :: rest => tokens (.quoted c) rest
  | .quoted q, c :: rest =>
    if c = '\'' then (tokens (.plain []) rest).map (Token.char q :: ·) else none

/-- The value of a decimal digit. -/
def decimalDigit (c : Char) : Option Nat :=
  if '0' ≤ c ∧ c ≤ '9' then some (c.toNat - 48) else none

/-- The value of a hexadecimal digit. -/
def hexDigit (c : Char) : Option Nat :=
  if '0' ≤ c ∧ c ≤ '9' then some (c.toNat - 48)
  else if 'a' ≤ c ∧ c ≤ 'f' then some (c.toNat - 87)
  else if 'A' ≤ c ∧ c ≤ 'F' then some (c.toNat - 55)
  else none

/-- Digits in a base, most significant first. -/
def digits (base : Nat) (digit : Char → Option Nat) (acc : Nat) : List Char → Option Nat
  | [] => some acc
  | c :: cs =>
    match digit c with
    | some d => digits base digit (acc * base + d) cs
    | none => none

/-- A number, decimal or `0x` hexadecimal (30_encoding.md R89). -/
def number : List Char → Option Nat
  | [] => none
  | ['0', 'x'] => none
  | '0' :: 'x' :: hs => digits 16 hexDigit 0 hs
  | ds => digits 10 decimalDigit 0 ds

/-- A numeric operand. -/
def numberOperand : Token → Option Nat
  | .word cs => number cs
  | .char _ => none
  | .str _ => none
  | .comma => none

/-- A format B operand: a number or a character literal, which means its ASCII code (30_encoding.md R89). DESIGN CHOICE
(assumption log 18): a character outside ASCII has no such code, and is taken by its code point; one above 255 is then out of
the operand's range. -/
def byteOperand : Token → Option Nat
  | .word cs => number cs
  | .char c => some c.toNat
  | .str _ => none
  | .comma => none

/-- A format K operand: `bech32`, `bech32m`, or a literal 0 or 1 (30_encoding.md R89). -/
def kindOperand (t : Token) : Option Nat :=
  if t = .word ['b', 'e', 'c', 'h', '3', '2'] then some 0
  else if t = .word ['b', 'e', 'c', 'h', '3', '2', 'm'] then some 1
  else numberOperand t

/-- The `p` of format C: `pad` or `nopad` (30_encoding.md R89). -/
def padOperand (t : Token) : Option Bool :=
  if t = .word ['p', 'a', 'd'] then some true
  else if t = .word ['n', 'o', 'p', 'a', 'd'] then some false
  else none

/-- The window register a `read` names (30_encoding.md R89, 20_memory.md R51). -/
def registerOperand (t : Token) : Option Nat :=
  if t = .word ['C', 'M', 'D'] then some 0x00
  else if t = .word ['R', 'E', 'S', 'U', 'L', 'T'] then some 0x04
  else if t = .word ['S', 'T', 'A', 'T', 'U', 'S'] then some 0x08
  else if t = .word ['C', 'H', 'K'] then some 0x0C
  else if t = .word ['C', 'V', 'S', 'T', 'A', 'T', 'E'] then some 0x10
  else if t = .word ['C', 'V', 'C', 'F', 'G'] then some 0x14
  else none

/-- The lines without operand, by mnemonic in upper case (30_encoding.md R84, R90). -/
def plainLine (m : List Char) : Option AsmLine :=
  if m = ['N', 'O', 'P'] then some .nop
  else if m = ['R', 'S', 'T'] then some .rst
  else if m = ['C', 'V', '.', 'F', 'L', 'U', 'S', 'H'] then some .cvFlush
  else if m = ['C', 'K', '.', 'I', 'N', 'I', 'T'] then some .ckInit
  else if m = ['C', 'K', '.', 'V', 'E', 'R', 'I', 'F', 'Y'] then some .ckVerify
  else if m = ['C', 'K', '.', 'H', 'R', 'P', 'S', 'E', 'P'] then some .ckHrpSep
  else if m = ['C', 'K', '.', 'F', 'I', 'N', 'I', 'S', 'H', '.', 'B', '3', '2'] then some .ckFinishB32
  else if m = ['C', 'K', '.', 'F', 'I', 'N', 'I', 'S', 'H', '.', 'B', '3', '2', 'M'] then some .ckFinishB32m
  else if m = ['C', 'V', '.', 'I', 'N', 'I', 'T', '8', '5'] then some .cvInit85
  else if m = ['C', 'V', '.', 'I', 'N', 'I', 'T', '5', '8'] then some .cvInit58
  else none

/-- The lines with one operand, by mnemonic in upper case (30_encoding.md R84, R89, R91). DESIGN CHOICE (assumption log 18):
each character of a `CK.HRP` string is one byte, its code point; one above 255 is an operand out of range. -/
def operandLine (m : List Char) (t : Token) : Option AsmLine :=
  if m = ['C', 'S', '.', 'E', 'N', 'C'] then (numberOperand t).map .csEnc
  else if m = ['C', 'S', '.', 'D', 'E', 'C'] then (byteOperand t).map .csDec
  else if m = ['C', 'V', '.', 'P', 'U', 'S', 'H'] then (byteOperand t).map .cvPush
  else if m = ['C', 'K', '.', 'S', 'Y', 'M'] then (numberOperand t).map .ckSym
  else if m = ['C', 'K', '.', 'H', 'R', 'P', 'H', 'I'] then (byteOperand t).map .ckHrpHi
  else if m = ['C', 'K', '.', 'H', 'R', 'P', 'L', 'O'] then (byteOperand t).map .ckHrpLo
  else if m = ['C', 'K', '.', 'F', 'I', 'N', 'I', 'S', 'H'] then (kindOperand t).map .ckFinish
  else if m = ['.', 'W', 'O', 'R', 'D'] then (numberOperand t).map .word
  else if m = ['R', 'E', 'A', 'D'] then (registerOperand t).map .read
  else if m = ['C', 'K', '.', 'H', 'R', 'P'] then
    match t with
    | .str cs => some (.ckHrp (cs.map Char.toNat))
    | .word _ => none
    | .char _ => none
    | .comma => none
  else none

/-- `CV.INIT f, t, p` (30_encoding.md R89, format C). -/
def cvInitLine (m : List Char) (f t p : Token) : Option AsmLine :=
  if m = ['C', 'V', '.', 'I', 'N', 'I', 'T'] then
    match numberOperand f, numberOperand t, padOperand p with
    | some f', some t', some p' => some (.cvInit f' t' p')
    | _, _, _ => none
  else none

/-- The line a token list stands for. Mnemonics are case-insensitive (30_encoding.md R89). -/
def lineOf : List Token → Option AsmLine
  | [.word m] => plainLine (m.map Char.toUpper)
  | [.word m, t] => operandLine (m.map Char.toUpper) t
  | [.word m, f, .comma, t, .comma, p] => cvInitLine (m.map Char.toUpper) f t p
  | _ => none

/-- The host accesses of one line of text: none on an assembly error, no access for an empty line or a comment
(30_encoding.md R89). -/
def assembleText (text : List Char) : Option (List Event) :=
  match tokens (.plain []) text with
  | none => none
  | some [] => some []
  | some ts =>
    match lineOf ts with
    | some l => lineEvents l
    | none => none

end Sys2Proof.Machine
end

