-- ==== Sys2Proof/Safety.lean ====
section
/-! DEFINITION. The terms claims are stated in: the invariants of 10_state.md R32, the families of commands and the
registers each family owns (70_reset_and_hazards.md R236), and runs of commands. -/

namespace Sys2Proof.Machine

/-- The invariants of 10_state.md R32, in its order. -/
abbrev StateInvariant (s : State) : Prop :=
  s.chk.toNat < 2 ^ 30 ∧
  s.nbits.toNat ≤ s.cfgT.toNat ∧
  s.acc.toNat < 2 ^ s.nbits.toNat ∧
  (s.cverr ≠ 3 ∧ s.matched ≠ 3) ∧
  (s.cverr ≠ 2 → s.padx = false ∧ s.padnz = false) ∧
  s.err.toNat ≤ 5

end Sys2Proof.Machine

namespace Sys2Proof

/-- A command of the charset family (41_charset.md). -/
def Instr.isCharset : Instr → Bool
  | .csEnc _ => true
  | .csDec _ => true
  | .nop => false
  | .rst => false
  | .cvInit _ _ _ => false
  | .cvPush _ => false
  | .cvFlush => false
  | .ckInit => false
  | .ckSym _ => false
  | .ckHrpHi _ => false
  | .ckHrpLo _ => false
  | .ckFinish _ => false
  | .ckVerify => false

/-- A command of the converter family (42_bitconv.md). -/
def Instr.isConverter : Instr → Bool
  | .cvInit _ _ _ => true
  | .cvPush _ => true
  | .cvFlush => true
  | .nop => false
  | .rst => false
  | .csEnc _ => false
  | .csDec _ => false
  | .ckInit => false
  | .ckSym _ => false
  | .ckHrpHi _ => false
  | .ckHrpLo _ => false
  | .ckFinish _ => false
  | .ckVerify => false

/-- A command of the checksum family (43_checksum.md). -/
def Instr.isChecksum : Instr → Bool
  | .ckInit => true
  | .ckSym _ => true
  | .ckHrpHi _ => true
  | .ckHrpLo _ => true
  | .ckFinish _ => true
  | .ckVerify => true
  | .nop => false
  | .rst => false
  | .csEnc _ => false
  | .csDec _ => false
  | .cvInit _ _ _ => false
  | .cvPush _ => false
  | .cvFlush => false

end Sys2Proof

namespace Sys2Proof.Machine

/-- The checksum family's registers agree (70_reset_and_hazards.md R236). -/
abbrev SameChecksum (s t : State) : Prop := s.chk = t.chk ∧ s.matched = t.matched

/-- The converter family's registers agree (70_reset_and_hazards.md R236). -/
abbrev SameConverter (s t : State) : Prop :=
  s.acc = t.acc ∧ s.nbits = t.nbits ∧ s.cfgF = t.cfgF ∧ s.cfgT = t.cfgT ∧ s.cfgP = t.cfgP ∧
  s.cverr = t.cverr ∧ s.padx = t.padx ∧ s.padnz = t.padnz

/-- The 12 registers of 10_state.md R20 agree. -/
abbrev SameRegisters (s t : State) : Prop :=
  SameChecksum s t ∧ SameConverter s t ∧ s.err = t.err ∧ s.result = t.result

/-- What no command touches: the alphabet ROM, and the model's own fields. -/
abbrev SameOutside (s t : State) : Prop :=
  s.charset = t.charset ∧ s.pending = t.pending ∧ s.response = t.response

/-- An admitted write to CMD, and its word (20_memory.md R53, R55). -/
def Event.commandWord : Event → Option Word
  | .idle => none
  | .reset _ => none
  | .access a => if a.admitted && a.we && a.addr == 0 then some a.wdata else none

/-- The event resets the block, by the `rst` input or by an RST command (70_reset_and_hazards.md R230). -/
def Event.resets (e : Event) : Bool :=
  match e with
  | .idle => false
  | .reset _ => true
  | .access _ =>
    match e.commandWord with
    | some w => decode w == .command .rst
    | none => false

/-- The event is a CV.INIT command. -/
def Event.startsConverter (e : Event) : Bool :=
  match e.commandWord with
  | none => false
  | some w =>
    match decode w with
    | .illegal _ => false
    | .command i => i.opcode == 0x20

/-- The states after each word of a list written to CMD in order, if every one answers a next state. -/
def statesAfter : List Word → State → Option (List State)
  | [], _ => some []
  | w :: ws, s =>
    match execute w s with
    | .next t => (statesAfter ws t).map (t :: ·)
    | .fault _ => none
    | .refused _ => none

/-- The state after a list of commands, if every one answers a next state. -/
def runCommands : List Instr → State → Option State
  | [], s => some s
  | i :: is, s =>
    match exec i s with
    | .next t => runCommands is t
    | .fault _ => none
    | .refused _ => none

/-- The command of a family that a word stands for. -/
def familyWord (family : Instr → Bool) (w : Word) : Option Instr :=
  match decode w with
  | .command i => if family i then some i else none
  | .illegal _ => none

/-- Of the states after each word, those right after a command of the family. -/
def familyStates (family : Instr → Bool) (ws : List Word) (ts : List State) : List State :=
  (ws.zip ts).filterMap fun p => if (familyWord family p.1).isSome then some p.2 else none

end Sys2Proof.Machine
end

