-- ==== Sys2Proof/Source.lean ====
section
/-! DEFINITION. The source's pure functions, as 00_scope.md R3 scopes them and 42_bitconv.md and 43_checksum.md quote them,
on unbounded numbers and sequences: what the block's streams are claimed to compute (42_bitconv.md R128, R129,
43_checksum.md R155, R157, R159). The machine never calls them. -/

namespace Sys2Proof.Source

/-- The generator table, as 43_checksum.md R150 writes it. -/
def generator : List Nat := [0x3b6a57b2, 0x26508e6d, 0x1ea119fa, 0x3d4233dd, 0x2a1462b3]

/-- One round of the source's polymod loop (43_checksum.md, opening quotation). -/
def polymodStep (chk v : Nat) : Nat :=
  let top := chk >>> 25
  let shifted := ((chk &&& 0x1ffffff) <<< 5) ^^^ v
  generator.zipIdx.foldl (fun c g => if (top >>> g.2) &&& 1 = 1 then c ^^^ g.1 else c) shifted

/-- `polymod(values)` (43_checksum.md R150). -/
def polymod (values : List Nat) : Nat := values.foldl polymodStep 1

/-- `expandHrp(hrp)` (43_checksum.md R155). -/
def expandHrp (hrp : List Nat) : List Nat := hrp.map (· >>> 5) ++ [0] ++ hrp.map (· &&& 31)

/-- `const(kind)` (43_checksum.md R156). -/
def const : Kind → Nat
  | .bech32 => 1
  | .bech32m => 0x2bc830a3

/-- `polymod(expandHrp(hrp) ++ payload ++ [0]*6) XOR const(kind)` (43_checksum.md R156). -/
def checksumValue (hrp payload : List Nat) (kind : Kind) : Nat :=
  polymod (expandHrp hrp ++ payload ++ List.replicate 6 0) ^^^ const kind

/-- The six symbols of a checksum value, most significant first (43_checksum.md R157). -/
def checksumSymbols (value : Nat) : List Nat := (List.range 6).map fun i => (value >>> (5 * (5 - i))) &&& 31

/-- `createChecksum(hrp, payload, kind)` (43_checksum.md R156, R157). -/
def createChecksum (hrp payload : List Nat) (kind : Kind) : List Nat :=
  checksumSymbols (checksumValue hrp payload kind)

/-- `verifyChecksum(hrp, payloadWithChecksum)`: the kind that matches, or none (43_checksum.md R158). -/
def verifyChecksum (hrp data : List Nat) : Option Kind :=
  let residue := polymod (expandHrp hrp ++ data)
  if residue = const .bech32 then some .bech32
  else if residue = const .bech32m then some .bech32m
  else none

/-- The match code of a verdict (10_state.md R29). -/
def matchCode : Option Kind → Nat
  | none => 0
  | some .bech32 => 1
  | some .bech32m => 2

/-- What `convert` returns: the groups, the index of the first input above `2^fromBits - 1`, or a padding failure
(42_bitconv.md R128). -/
inductive Conversion where
  | groups (gs : List Nat)
  | inputRange (k : Nat)
  | invalidPadding
deriving DecidableEq, Repr

/-- The loop `while bitCount >= toBits: bitCount <- bitCount - toBits; emit (acc >> bitCount) & (2^toBits - 1)`: the groups
emitted and the bit count left (42_bitconv.md, opening quotation). `fuel` bounds the rounds; `bitCount` rounds suffice. -/
def drain (toBits acc : Nat) : (fuel bitCount : Nat) → List Nat × Nat
  | 0, bitCount => ([], bitCount)
  | fuel + 1, bitCount =>
    if toBits ≤ bitCount then
      let left := bitCount - toBits
      let rest := drain toBits acc fuel left
      (((acc >>> left) &&& (2 ^ toBits - 1)) :: rest.1, rest.2)
    else ([], bitCount)

/-- The end of `convert`, after all input is consumed (42_bitconv.md, opening quotation): `out` is what was emitted. -/
def finish (fromBits toBits : Nat) (pad : Bool) (acc bitCount : Nat) (out : List Nat) : Conversion :=
  let group := (acc <<< (toBits - bitCount)) &&& (2 ^ toBits - 1)
  if pad then .groups (if 0 < bitCount then out ++ [group] else out)
  else if bitCount < fromBits ∧ group = 0 then .groups out
  else .invalidPadding

/-- `convert` from input number `k` on, with an accumulator that only grows and the count of buffered bits. -/
def convertFrom (fromBits toBits : Nat) (pad : Bool) : (data : List Nat) → (k acc bitCount : Nat) → List Nat → Conversion
  | [], _, acc, bitCount, out => finish fromBits toBits pad acc bitCount out
  | v :: vs, k, acc, bitCount, out =>
    if 2 ^ fromBits - 1 < v then .inputRange k
    else
      let acc' := (acc <<< fromBits) ||| v
      let d := drain toBits acc' (bitCount + fromBits) (bitCount + fromBits)
      convertFrom fromBits toBits pad vs (k + 1) acc' d.2 (out ++ d.1)

/-- `convert(data, fromBits, toBits, pad)` (42_bitconv.md, opening quotation). -/
def convert (data : List Nat) (fromBits toBits : Nat) (pad : Bool) : Conversion :=
  convertFrom fromBits toBits pad data 0 0 0 []

/-- How a host takes the groups out of a converter's RESULT (42_bitconv.md R123). -/
def unpack (toBits : Nat) (result : Word) : List Nat :=
  let out := (result.extractLsb' 0 15).toNat
  let count := (result.extractLsb' 16 4).toNat
  (List.range count).map fun j => (out >>> (toBits * (count - 1 - j))) &&& (2 ^ toBits - 1)

end Sys2Proof.Source
end

