-- ==== Sys2Proof/Certificates/Slice0/Obligations.lean ====
section
/-! DEFINITION. The statements for the provers. The list of events and the answer field that statements about `step` mention
are the model's own fields (assumption log 1, 2). -/

open Sys2Proof Sys2Proof.Machine

/-! ### Encoding -/

/-- Decode and encode agree, in both directions, on every command and every word (30_encoding.md R82, R84, R85). -/
def Obligations.DecodeEncodeRoundTrip : Prop :=
  (∀ i : Instr, decode (encode i) = .command i) ∧
  (∀ (w : Word) (i : Instr), decode w = .command i → encode i = w)

/-- The table of 30_encoding.md R84 written out, with the operands of R83: a word that meets a row's mask and match decodes
to that row's command and executes it, a word that meets none is illegal and executes as ERR <- 1 (R85), and no two rows meet
one word. -/
def Obligations.DecodeFollowsMaskAndMatch : Prop :=
  let rows : List (Word × Word × (Word → Instr)) :=
    [(0xFFFFFFFF, 0x00000000, fun _ => .nop),
     (0xFFFFFFFF, 0x01000000, fun _ => .rst),
     (0xFFFFFFE0, 0x10000000, fun w => .csEnc (w.extractLsb' 0 5)),
     (0xFFFFFF00, 0x11000000, fun w => .csDec (w.extractLsb' 0 8)),
     (0xFFFFFE88, 0x20000000, fun w => .cvInit (w.extractLsb' 0 3) (w.extractLsb' 4 3) (w.getLsbD 8)),
     (0xFFFFFF00, 0x21000000, fun w => .cvPush (w.extractLsb' 0 8)),
     (0xFFFFFFFF, 0x22000000, fun _ => .cvFlush),
     (0xFFFFFFFF, 0x30000000, fun _ => .ckInit),
     (0xFFFFFFE0, 0x31000000, fun w => .ckSym (w.extractLsb' 0 5)),
     (0xFFFFFF00, 0x32000000, fun w => .ckHrpHi (w.extractLsb' 0 8)),
     (0xFFFFFF00, 0x33000000, fun w => .ckHrpLo (w.extractLsb' 0 8)),
     (0xFFFFFFFE, 0x34000000, fun w => .ckFinish (if w.getLsbD 0 then .bech32m else .bech32)),
     (0xFFFFFFFF, 0x35000000, fun _ => .ckVerify)]
  (∀ w, ∀ r ∈ rows, w &&& r.1 = r.2.1 →
    decode w = .command (r.2.2 w) ∧ ∀ s, execute w s = exec (r.2.2 w) s) ∧
  (∀ w, (∀ r ∈ rows, w &&& r.1 ≠ r.2.1) →
    (∃ why, decode w = .illegal why) ∧ ∀ s, execute w s = .next { s with err := 1 }) ∧
  (∀ w, ∀ r ∈ rows, ∀ r' ∈ rows, w &&& r.1 = r.2.1 → w &&& r'.1 = r'.2.1 → (r.1, r.2.1) = (r'.1, r'.2.1))

/-- The two classes of illegal words of 30_encoding.md R86, exactly, and their one effect. -/
def Obligations.IllegalWordClasses : Prop :=
  let op : Word → Nat := fun w => w.toNat / 2 ^ 24
  let reservedSet : Word → Prop := fun w =>
    (op w ∈ [0x00, 0x01, 0x22, 0x30, 0x35] ∧ w.extractLsb' 0 24 ≠ 0) ∨
    (op w ∈ [0x10, 0x31] ∧ w.extractLsb' 5 19 ≠ 0) ∨
    (op w ∈ [0x11, 0x21, 0x32, 0x33] ∧ w.extractLsb' 8 16 ≠ 0) ∨
    (op w = 0x34 ∧ w.extractLsb' 1 23 ≠ 0) ∨
    (op w = 0x20 ∧ (w.extractLsb' 9 15 ≠ 0 ∨ w.getLsbD 7 ∨ w.getLsbD 3))
  (∀ w, decode w = .illegal .unassignedOpcode ↔
    (0x02 ≤ op w ∧ op w ≤ 0x0F) ∨ (0x12 ≤ op w ∧ op w ≤ 0x1F) ∨ (0x23 ≤ op w ∧ op w ≤ 0x2F) ∨ 0x36 ≤ op w) ∧
  (∀ w, decode w = .illegal .reservedBitSet ↔ reservedSet w) ∧
  (∀ w why s, decode w = .illegal why → execute w s = .next { s with err := 1 })

/-- Words written out from the formats of 30_encoding.md R82 decode to the commands they stand for, and their neighbours
with a reserved bit set do not (95_test_vectors.md 2.2, 2.3, 2.4, 2.6). -/
def Obligations.DecodesWordsOfTheSpec : Prop :=
  decode 0b00000000000000000000000000000000 = .command .nop ∧
  decode 0b00000001000000000000000000000000 = .command .rst ∧
  decode 0b00010000000000000000000000011101 = .command (.csEnc 29) ∧
  decode 0b00010001000000000000000001000001 = .command (.csDec 0x41) ∧
  decode 0b00100000000000000000000101000111 = .command (.cvInit 7 4 true) ∧
  decode 0b00100000000000000000000001110100 = .command (.cvInit 4 7 false) ∧
  decode 0b00100001000000000000000001110101 = .command (.cvPush 0x75) ∧
  decode 0b00110001000000000000000000001010 = .command (.ckSym 10) ∧
  decode 0b00110010000000000000000001100001 = .command (.ckHrpHi 0x61) ∧
  decode 0b00110011000000000000000001100010 = .command (.ckHrpLo 0x62) ∧
  decode 0b00110100000000000000000000000001 = .command (.ckFinish .bech32m) ∧
  decode 0b00100000000000000000000000001000 = .illegal .reservedBitSet ∧
  decode 0b00110110000000000000000000000000 = .illegal .unassignedOpcode

/-! ### The step and the register window -/

/-- A step on a host write of a command's word to CMD is exec of the command, with the access taken from the pending ones,
and the write acknowledged (20_memory.md R53, R55). -/
def Obligations.StepRunsTheDecodedCommand : Prop :=
  ∀ (s : State) (rest : List Event) (w : Word) (i : Instr) (t : State),
    s.pending = .access { we := true, addr := 0, be := 0b1111, wdata := w } :: rest →
    decode w = .command i →
    exec i { s with pending := rest } = .next t →
    step s = .next { t with response := some .ack }

/-- A host write of an illegal word to CMD sets ERR to 1, changes no other register, and is acknowledged
(60_exceptions.md R202). -/
def Obligations.IllegalCommandSetsErrOnly : Prop :=
  Response.ack.berr = false ∧
  ∀ (s : State) (rest : List Event) (w : Word) (why : Illegal),
    s.pending = .access { we := true, addr := 0, be := 0b1111, wdata := w } :: rest →
    decode w = .illegal why →
    step s = .next { s with err := 1, pending := rest, response := some .ack }

/-- An access that is not a whole aligned word answers a bus error, with read data 0, and changes no register
(20_memory.md R57). -/
def Obligations.UnadmittedAccessIsABusError : Prop :=
  Response.busError.berr = true ∧ Response.busError.rdata = some 0 ∧
  (∀ s : State, s.response = some .busError → s.ready = true) ∧
  ∀ (s : State) (rest : List Event) (a : Access),
    s.pending = .access a :: rest → (a.be ≠ 0b1111 ∨ a.addr.toNat % 4 ≠ 0) →
    step s = .next { s with pending := rest, response := some .busError }

/-- A whole aligned read answers the register at its offset, field by field as 10_state.md lays it out, and changes no
register; and the words read right after reset (10_state.md R33 to R36, R38, R39, 20_memory.md R54). -/
def Obligations.ReadAnswersTheRegister : Prop :=
  (∀ (s : State) (rest : List Event) (a : Access),
    s.pending = .access a :: rest → a.be = 0b1111 → a.addr.toNat % 4 = 0 → a.we = false →
    ∃ v : Word,
      step s = .next { s with pending := rest, response := some (.data v) } ∧
      (a.addr = 0x00 → v = 0) ∧
      (a.addr = 0x04 → v = s.result) ∧
      (a.addr = 0x08 → v.toNat =
        s.err.toNat + 2 ^ 4 * s.matched.toNat + 2 ^ 16 * s.cverr.toNat + 2 ^ 18 * s.padx.toNat + 2 ^ 19 * s.padnz.toNat) ∧
      (a.addr = 0x0C → v.toNat = s.chk.toNat) ∧
      (a.addr = 0x10 → v.toNat = s.acc.toNat + 2 ^ 8 * s.nbits.toNat) ∧
      (a.addr = 0x14 → v.toNat = s.cfgF.toNat + 2 ^ 4 * s.cfgT.toNat + 2 ^ 8 * s.cfgP.toNat) ∧
      (a.addr = 0x18 → v = 0) ∧
      (a.addr = 0x1C → v = 0)) ∧
  readReg 0x04 State.reset = 0x00000000 ∧ readReg 0x08 State.reset = 0x00000000 ∧
  readReg 0x0C State.reset = 0x00000001 ∧ readReg 0x10 State.reset = 0x00000000 ∧
  readReg 0x14 State.reset = 0x00000147

/-- A whole aligned write to any offset but CMD is acknowledged and changes no register; and no event but a command and a
reset changes any register at all (20_memory.md R56). -/
def Obligations.OtherWritesAreIgnored : Prop :=
  Response.ack.berr = false ∧
  (∀ (s : State) (rest : List Event) (a : Access),
    s.pending = .access a :: rest → a.be = 0b1111 → a.addr.toNat % 4 = 0 → a.we = true → a.addr ≠ 0 →
    step s = .next { s with pending := rest, response := some .ack }) ∧
  (∀ (s t : State) (e : Event) (rest : List Event),
    s.pending = e :: rest → e.commandWord = none → (∀ a, e ≠ .reset a) → step s = .next t → SameRegisters s t)

/-- In an idle slot, and with nothing left to come, the block holds its state (60_exceptions.md R214). That an idle slot
leaves no answer is the model's choice (assumption log 2), and so is an empty list of events (log 1). -/
def Obligations.IdleBlockHoldsItsState : Prop :=
  (∀ (s : State) (rest : List Event), s.pending = .idle :: rest →
    step s = .next { s with pending := rest, response := none }) ∧
  (∀ s : State, s.pending = [] → step s = .next { s with response := none })

/-- The five readable words determine all 12 registers: no state is hidden from the host (10_state.md R41). -/
def Obligations.WindowShowsEveryRegister : Prop :=
  ∀ s t : State,
    readReg 0x04 s = readReg 0x04 t → readReg 0x08 s = readReg 0x08 t → readReg 0x0C s = readReg 0x0C t →
    readReg 0x10 s = readReg 0x10 t → readReg 0x14 s = readReg 0x14 t → SameRegisters s t

/-- The bus address of a window word reaches the register at its offset, whatever BASE is; an address outside the window does
not select the block (20_memory.md R51, R52). That no alias of the window is decoded is the model's choice (log 4). -/
def Obligations.WindowStandsAtBase : Prop :=
  Config.base % 32 = 0 ∧
  (∀ off : BitVec 5, memRead (Config.base + off.toNat) = readEvent off) ∧
  (∀ (off : BitVec 5) (w : Word), memWrite (Config.base + off.toNat) w = writeEvent off w) ∧
  (∀ a, (a < Config.base ∨ Config.base + 31 < a) → memRead a = .idle ∧ ∀ w, memWrite a w = .idle)

/-- No access, no command and no event stops the machine: every step answers a next state, with one event fewer to come
(20_memory.md R53, 30_encoding.md R85, 70_reset_and_hazards.md R239). The list of events is the model's own (assumption log 1). -/
def Obligations.EveryStepCompletes : Prop :=
  ∀ s : State, ∃ t, step s = .next t ∧ t.pending = s.pending.tail

/-! ### Reset and invariants -/

/-- Every reset source leaves every register at its reset value: the state after reset, the `rst` input (with or without an
access in progress, and whatever the other ports hold) and the RST command, whose write is acknowledged (10_state.md R42,
44_control.md R181, 70_reset_and_hazards.md R230). The alphabet is not touched. That the reset input answers no access, and
abandons the one in progress without effect, follows 70_reset_and_hazards.md R231 as the model reads it (assumption log 8,
DEDUCED). -/
def Obligations.ResetSourcesAgree : Prop :=
  let cleared : State → State := fun s =>
    { chk := 1, acc := 0, nbits := 0, cfgF := 7, cfgT := 4, cfgP := true, cverr := 0, padx := false, padnz := false,
      matched := 0, err := 0, result := 0, charset := s.charset, pending := s.pending, response := s.response }
  SameRegisters State.reset (cleared State.reset) ∧
  decode 0x01000000 = .command .rst ∧
  (∀ s : State, exec .rst s = .next (cleared s)) ∧
  (∀ (s : State) (rest : List Event),
    s.pending = .access { we := true, addr := 0, be := 0b1111, wdata := 0x01000000 } :: rest →
    step s = .next { cleared s with pending := rest, response := some .ack }) ∧
  (∀ (sel we : Bool) (addr : BitVec 5) (be : BitVec 4) (wdata : Word),
    ∃ inProgress, Event.ofPorts true sel we addr be wdata = .reset inProgress) ∧
  (∀ (s : State) (inProgress : Option Access) (rest : List Event), s.pending = .reset inProgress :: rest →
    step s = .next { cleared s with pending := rest, response := none }) ∧
  (∀ s : State, readReg 0x04 (cleared s) = 0 ∧ readReg 0x08 (cleared s) = 0 ∧ readReg 0x0C (cleared s) = 0x00000001 ∧
    readReg 0x10 (cleared s) = 0 ∧ readReg 0x14 (cleared s) = 0x00000147)

/-- The reset state meets the invariants of 10_state.md R32, and its alphabet is well-formed (00_scope.md R6). -/
def Obligations.ResetMeetsTheInvariant : Prop :=
  StateInvariant State.reset ∧ CharsetWellFormed State.reset.charset

/-- Every step from every state that meets the invariants of 10_state.md R32 leads to one that meets them. -/
def Obligations.StepKeepsTheInvariant : Prop :=
  ∀ s t : State, StateInvariant s → step s = .next t → StateInvariant t

/-- The invariants of 10_state.md R32 hold in every state that any sequence of host accesses and resets reaches from
reset. -/
def Obligations.ReachableStatesMeetTheInvariant : Prop :=
  ∀ (events : List Event) (k : Nat) (t : State),
    Sys2Proof.core.run k { State.reset with pending := events } = .next t → StateInvariant t

/-- The alphabet ROM is written by no event at all, a reset included, and only CS.ENC and CS.DEC read it: what any other
command does is the same whatever it holds (10_state.md R40). -/
def Obligations.AlphabetIsReadOnly : Prop :=
  (∀ s t : State, step s = .next t → t.charset = s.charset) ∧
  (∀ (i : Instr) (s t : State) (rom : Vector Byte 32), i.isCharset = false → exec i s = .next t →
    exec i { s with charset := rom } = .next { t with charset := rom })

/-! ### Rules of the whole machine -/

/-- The "written by" column of 10_state.md R20, register by register: a command changes a register only if it is one of its
writers, and no command changes the alphabet or what the environment does. -/
def Obligations.RegistersChangeOnlyByTheirWriters : Prop :=
  ∀ (i : Instr) (s t : State), exec i s = .next t →
    SameOutside s t ∧
    (t.chk ≠ s.chk →
      i = .rst ∨ i = .ckInit ∨ (∃ v, i = .ckSym v) ∨ (∃ b, i = .ckHrpHi b) ∨ (∃ b, i = .ckHrpLo b) ∨ ∃ k, i = .ckFinish k) ∧
    ((t.acc ≠ s.acc ∨ t.nbits ≠ s.nbits) →
      i = .rst ∨ (∃ f u p, i = .cvInit f u p) ∨ (∃ b, i = .cvPush b) ∨ i = .cvFlush) ∧
    ((t.cfgF ≠ s.cfgF ∨ t.cfgT ≠ s.cfgT ∨ t.cfgP ≠ s.cfgP) → i = .rst ∨ ∃ f u p, i = .cvInit f u p) ∧
    (t.cverr ≠ s.cverr → i = .rst ∨ (∃ f u p, i = .cvInit f u p) ∨ (∃ b, i = .cvPush b) ∨ i = .cvFlush) ∧
    ((t.padx ≠ s.padx ∨ t.padnz ≠ s.padnz) → i = .rst ∨ (∃ f u p, i = .cvInit f u p) ∨ i = .cvFlush) ∧
    (t.matched ≠ s.matched → i = .rst ∨ i = .ckInit ∨ i = .ckVerify) ∧
    (t.result ≠ s.result →
      i = .rst ∨ (∃ v, i = .csEnc v) ∨ (∃ b, i = .csDec b) ∨ (∃ b, i = .cvPush b) ∨ i = .cvFlush ∨
      (∃ k, i = .ckFinish k) ∨ i = .ckVerify)

/-- Once CVERR is non-zero it stays unchanged, whatever event comes, until CV.INIT or a reset (10_state.md R27). -/
def Obligations.ConverterErrorIsSticky : Prop :=
  ∀ (s t : State) (e : Event) (rest : List Event),
    s.pending = e :: rest → s.cverr ≠ 0 → step s = .next t →
    e.resets = false → e.startsConverter = false → t.cverr = s.cverr

/-- ERR is the code of the most recent write to CMD: any other event but a reset leaves it unchanged, and what a write to
CMD leaves in it does not depend on what stood there (10_state.md R30). -/
def Obligations.ErrIsTheLastCommandsCode : Prop :=
  (∀ (s t : State) (e : Event) (rest : List Event),
    s.pending = e :: rest → step s = .next t → e.commandWord = none → e.resets = false → t.err = s.err) ∧
  (∀ (s : State) (e : Event) (w : Word) (rest : List Event) (x : BitVec 4),
    s.pending = e :: rest → e.commandWord = some w → step { s with err := x } = step s)

/-- Which command can report which code (60_exceptions.md R201, the "raised by" column), and that a command that reports an
error changes RESULT to 0, the converter's error registers where its rule says so, and nothing else (R203). -/
def Obligations.ErrorsArePreciseAndPerCommand : Prop :=
  ∀ (i : Instr) (s t : State), exec i s = .next t →
    (t.err = 0 ∨ (t.err = 2 ∧ ∃ b, i = .cvPush b) ∨ (t.err = 3 ∧ i = .cvFlush) ∨ (t.err = 4 ∧ ∃ b, i = .csDec b) ∨
      (t.err = 5 ∧ ((∃ b, i = .cvPush b) ∨ i = .cvFlush))) ∧
    (t.err = 4 ∨ t.err = 5 → t = { s with result := 0, err := t.err }) ∧
    (t.err = 2 → t = { s with result := 0, err := 2, cverr := 1 }) ∧
    (t.err = 3 → t = { s with result := 0, err := 3, cverr := 2, padx := t.padx, padnz := t.padnz })

/-- The families touch only their own registers: what any command leaves in the checksum registers depends on those
registers alone, and likewise for the converter (70_reset_and_hazards.md R236). -/
def Obligations.FamiliesDoNotInterfere : Prop :=
  ∀ (i : Instr) (s s' t t' : State), exec i s = .next t → exec i s' = .next t' →
    (SameChecksum s s' → SameChecksum t t') ∧
    (SameConverter s s' → SameConverter t t')

/-! ### Control -/

/-- NOP clears ERR and changes nothing else; every other word of its opcode is illegal (44_control.md R180). -/
def Obligations.NopClearsErr : Prop :=
  (∀ s : State, exec .nop s = .next { s with err := 0 }) ∧
  decode 0x00000000 = .command .nop ∧
  (∀ w : Word, w.toNat / 2 ^ 24 = 0 → w ≠ 0 → ∃ why, decode w = .illegal why)

/-! ### Charset -/

/-- CS.ENC gives the character at its index and writes nothing else but ERR; the character is a digit or lowercase letter of
the alphabet where the alphabet is well-formed; a word of its opcode with any of bits 23 to 5 set is illegal (41_charset.md
R102). -/
def Obligations.CsEncGivesTheCharacter : Prop :=
  (∀ (v : Symbol) (s : State),
    decode (0x10000000#32 ||| v.setWidth 32) = .command (.csEnc v) ∧
    exec (.csEnc v) s = .next { s with result := BitVec.ofNat 32 (s.charset[v.toNat]'v.isLt).toNat, err := 0 } ∧
    (CharsetWellFormed s.charset → s.charset[v.toNat]'v.isLt ∈ Config.legalCharacters)) ∧
  (∀ w : Word, w.toNat / 2 ^ 24 = 0x10 → w.extractLsb' 5 19 ≠ 0 → ∃ why, decode w = .illegal why)

/-- CS.DEC on a member gives 0x100 plus the index of the folded byte, and on a non-member RESULT 0 and error 4; nothing else
changes (41_charset.md R101, R103). -/
def Obligations.CsDecFindsTheIndex : Prop :=
  let fold : Byte → Nat := fun b => if 0x41 ≤ b.toNat ∧ b.toNat ≤ 0x5A then b.toNat + 0x20 else b.toNat
  ∀ (b : Byte) (s : State), CharsetWellFormed s.charset →
    decode (0x11000000#32 ||| b.setWidth 32) = .command (.csDec b) ∧
    (∀ v : Symbol, (s.charset[v.toNat]'v.isLt).toNat = fold b →
      exec (.csDec b) s = .next { s with result := BitVec.ofNat 32 (0x100 + v.toNat), err := 0 }) ∧
    ((∀ v : Symbol, (s.charset[v.toNat]'v.isLt).toNat ≠ fold b) →
      exec (.csDec b) s = .next { s with result := 0, err := 4 })

/-- For every well-formed alphabet, whatever its order, the members are exactly the 32 characters and the uppercase forms of
the 23 letters among them, 55 bytes (41_charset.md R101). -/
def Obligations.FiftyFiveMembers : Prop :=
  ∀ rom : Vector Byte 32, CharsetWellFormed rom →
    (∀ b : Byte, isMember rom b = true ↔
      b ∈ Config.legalCharacters ∨ (0x41 ≤ b.toNat ∧ b.toNat ≤ 0x5A ∧ b + 0x20 ∈ Config.legalCharacters)) ∧
    ((List.range 256).filter fun n => isMember rom (BitVec.ofNat 8 n)).length = 55

/-- CS.ENC then CS.DEC gives the index back, and CS.DEC of a member then CS.ENC gives the folded byte
(41_charset.md R104). -/
def Obligations.CharsetRoundTrip : Prop :=
  ∀ s : State, CharsetWellFormed s.charset →
    (∀ v : Symbol, ∃ t u, exec (.csEnc v) s = .next t ∧ exec (.csDec (t.result.extractLsb' 0 8)) t = .next u ∧
      u.result = 0x100#32 ||| v.setWidth 32 ∧ u.err = 0) ∧
    (∀ b : Byte, isMember s.charset b = true →
      ∃ t u, exec (.csDec b) s = .next t ∧ exec (.csEnc (t.result.extractLsb' 0 5)) t = .next u ∧
        u.result = (foldCase b).setWidth 32)

/-- CS.ENC and CS.DEC commute with every converter and checksum command, up to RESULT and ERR (41_charset.md R104). -/
def Obligations.CharsetCommandsCommute : Prop :=
  ∀ (i j : Instr) (s : State), i.isCharset = true → (j.isConverter = true ∨ j.isChecksum = true) →
    ∃ si sij sj sji, exec i s = .next si ∧ exec j si = .next sij ∧ exec j s = .next sj ∧ exec i sj = .next sji ∧
      SameChecksum sij sji ∧ SameConverter sij sji ∧ SameOutside sij sji

/-! ### Converter -/

/-- CV.INIT writes the configuration, clears the converter and its error, and writes nothing else but ERR
(42_bitconv.md R121). -/
def Obligations.CvInitStartsAStream : Prop :=
  ∀ (f t : BitVec 3) (p : Bool) (s : State),
    decode (0x20000000#32 ||| BitVec.ofNat 32 (2 ^ 8 * p.toNat + 2 ^ 4 * t.toNat + f.toNat)) = .command (.cvInit f t p) ∧
    exec (.cvInit f t p) s = .next
      { s with cfgF := f, cfgT := t, cfgP := p, acc := 0, nbits := 0, cverr := 0, padx := false, padnz := false, err := 0 }

/-- CV.PUSH of an accepted value emits exactly the groups of the source's loop, keeps the bits left over, and packs the
groups so that a host finds them in order, with every other bit of RESULT zero (42_bitconv.md R122, R123). In a state that
meets the invariants. -/
def Obligations.CvPushEmitsTheSourcesGroups : Prop :=
  ∀ (b : Byte) (s : State), StateInvariant s → s.cverr = 0 → b.toNat ≤ 2 ^ (s.cfgF.toNat + 1) - 1 →
    let fromBits := s.cfgF.toNat + 1
    let toBits := s.cfgT.toNat + 1
    let a := s.acc.toNat * 2 ^ fromBits + b.toNat
    let n := s.nbits.toNat + fromBits
    let d := Source.drain toBits a n n
    ∃ t : State, exec (.cvPush b) s = .next t ∧
      t = { s with acc := t.acc, nbits := t.nbits, result := t.result, err := 0 } ∧
      t.nbits.toNat = d.2 ∧ t.acc.toNat = a % 2 ^ d.2 ∧
      t.result.toNat / 2 ^ 16 = d.1.length ∧ t.result.getLsbD 15 = false ∧
      d.1.length * toBits ≤ 15 ∧
      t.result.toNat = 2 ^ 16 * d.1.length + a / 2 ^ d.2 % 2 ^ (d.1.length * toBits) ∧
      Source.unpack toBits t.result = d.1

/-- CV.PUSH of a value above `2^fromBits - 1` reports error 2, latches CVERR 1, clears RESULT and changes nothing else
(42_bitconv.md R122). -/
def Obligations.CvPushRejectsAnOutOfRangeValue : Prop :=
  ∀ (b : Byte) (s : State), s.cverr = 0 → 2 ^ (s.cfgF.toNat + 1) - 1 < b.toNat →
    exec (.cvPush b) s = .next { s with cverr := 1, result := 0, err := 2 }

/-- On a latched error CV.PUSH and CV.FLUSH do only `RESULT <- 0` and `ERR <- 5`, before any check of their own; CV.INIT and
RST clear it, and no other command changes it (42_bitconv.md R127). -/
def Obligations.LatchedErrorAborts : Prop :=
  (∀ (b : Byte) (s : State), s.cverr ≠ 0 → exec (.cvPush b) s = .next { s with result := 0, err := 5 }) ∧
  (∀ s : State, s.cverr ≠ 0 → exec .cvFlush s = .next { s with result := 0, err := 5 }) ∧
  (∀ (f t : BitVec 3) (p : Bool) (s : State), ∃ u, exec (.cvInit f t p) s = .next u ∧ u.cverr = 0) ∧
  (∀ s : State, ∃ u, exec .rst s = .next u ∧ u.cverr = 0) ∧
  (∀ (i : Instr) (s t : State), s.cverr ≠ 0 → exec i s = .next t →
    i = .rst ∨ (∃ f u p, i = .cvInit f u p) ∨
    (t.cverr = s.cverr ∧ t.padx = s.padx ∧ t.padnz = s.padnz ∧ t.acc = s.acc ∧ t.nbits = s.nbits))

/-- CV.FLUSH with pad = true always succeeds: it emits the leftover bits shifted to fill a group, or nothing where none are
left, and empties the buffer (42_bitconv.md R124). Where NBITS is above toBits, which no reachable state holds, it succeeds
with the same effects and a value of the group that nothing constrains (assumption log 5). -/
def Obligations.CvFlushPadsTheLeftoverBits : Prop :=
  ∀ s : State, s.cverr = 0 → s.cfgP = true →
    let toBits := s.cfgT.toNat + 1
    ∃ r : Word, exec .cvFlush s = .next { s with result := r, acc := 0, nbits := 0, err := 0 } ∧
      (s.nbits = 0 → r = 0) ∧
      (0 < s.nbits.toNat → r.toNat / 2 ^ 16 = 1 ∧ r.toNat % 2 ^ 16 < 2 ^ toBits) ∧
      (0 < s.nbits.toNat → s.nbits.toNat ≤ toBits →
        r.toNat = 2 ^ 16 + (s.acc.toNat * 2 ^ (toBits - s.nbits.toNat)) % 2 ^ toBits)

/-- CV.FLUSH with pad = false drops leftover bits that are fewer than fromBits and all zero; otherwise it reports error 3,
latches CVERR 2, records every cause that applies, clears RESULT and keeps the leftover bits (42_bitconv.md R124 to
R126). -/
def Obligations.CvFlushChecksThePadding : Prop :=
  ∀ s : State, s.cverr = 0 → s.cfgP = false →
    (s.nbits.toNat < s.cfgF.toNat + 1 → s.acc = 0 →
      exec .cvFlush s = .next { s with result := 0, acc := 0, nbits := 0, err := 0 }) ∧
    (s.cfgF.toNat + 1 ≤ s.nbits.toNat ∨ s.acc ≠ 0 →
      exec .cvFlush s = .next
        { s with cverr := 2, padx := decide (s.cfgF.toNat + 1 ≤ s.nbits.toNat), padnz := decide (s.acc ≠ 0),
                 result := 0, err := 3 })

/-- The 8-bit accumulator simulates the source's unbounded one: if ACC is the low NBITS bits of it, the groups CV.PUSH emits,
the whole of RESULT, and the relation after it are the source's (42_bitconv.md R129). -/
def Obligations.AccumulatorSimulatesTheSource : Prop :=
  ∀ (b : Byte) (s : State) (A : Nat), s.nbits.toNat ≤ s.cfgT.toNat → s.acc.toNat = A % 2 ^ s.nbits.toNat →
    s.cverr = 0 → b.toNat ≤ 2 ^ (s.cfgF.toNat + 1) - 1 →
    let A' := (A <<< (s.cfgF.toNat + 1)) ||| b.toNat
    let n := s.nbits.toNat + (s.cfgF.toNat + 1)
    let d := Source.drain (s.cfgT.toNat + 1) A' n n
    ∃ t, exec (.cvPush b) s = .next t ∧ t.nbits.toNat = d.2 ∧ t.acc.toNat = A' % 2 ^ d.2 ∧
      t.result.toNat = 2 ^ 16 * d.1.length + A' / 2 ^ d.2 % 2 ^ (d.1.length * (s.cfgT.toNat + 1)) ∧
      Source.unpack (s.cfgT.toNat + 1) t.result = d.1

/-- A whole stream computes the source's `convert`, with any other commands and illegal words between its commands
(42_bitconv.md R128). -/
def Obligations.ConverterStreamIsConvert : Prop :=
  ∀ (f u : BitVec 3) (p : Bool) (d : List Byte) (ws : List Word) (s : State),
    ws.filterMap (familyWord Instr.isConverter) = .cvInit f u p :: (d.map .cvPush ++ [.cvFlush]) →
    (∀ w ∈ ws, decode w ≠ .command .rst) →
    ∃ ts, statesAfter ws s = some ts ∧
      let outs := familyStates Instr.isConverter ws ts
      let errs := outs.map State.err
      match Source.convert (d.map BitVec.toNat) (f.toNat + 1) (u.toNat + 1) p with
      | .groups gs =>
          errs = List.replicate (d.length + 2) 0 ∧
          outs.tail.flatMap (fun t => Source.unpack (u.toNat + 1) t.result) = gs
      | .inputRange k =>
          errs = List.replicate (k + 1) 0 ++ 2 :: List.replicate (d.length - k) 5 ∧
          ts.getLast?.map State.cverr = some 1
      | .invalidPadding =>
          errs = List.replicate (d.length + 1) 0 ++ [3] ∧
          ts.getLast?.map State.cverr = some 2

/-! ### Checksum -/

/-- The polymod step is the source's, for every residue and symbol (43_checksum.md R150). -/
def Obligations.PolymodStepIsTheSources : Prop :=
  (∀ (c : Residue) (v : Symbol), (polymodStep c v).toNat = Source.polymodStep c.toNat v.toNat) ∧
  (∀ c v : Nat, c < 2 ^ 30 → v < 32 → Source.polymodStep c v < 2 ^ 30)

/-- CK.INIT sets CHK to 1, clears MATCH, and writes nothing else but ERR (43_checksum.md R151). -/
def Obligations.CkInitStartsAStream : Prop :=
  decode 0x30000000 = .command .ckInit ∧
  ∀ s : State, exec .ckInit s = .next { s with chk := 1, matched := 0, err := 0 }

/-- CK.SYM feeds its symbol to CHK by the source's step and writes nothing else but ERR; a word of its opcode with any of bits
23 to 5 set is illegal (43_checksum.md R152). -/
def Obligations.CkSymFeedsItsSymbol : Prop :=
  (∀ (v : Symbol) (s : State),
    decode (0x31000000#32 ||| v.setWidth 32) = .command (.ckSym v) ∧
    exec (.ckSym v) s = .next { s with chk := BitVec.ofNat 30 (Source.polymodStep s.chk.toNat v.toNat), err := 0 }) ∧
  (∀ w : Word, w.toNat / 2 ^ 24 = 0x31 → w.extractLsb' 5 19 ≠ 0 → ∃ why, decode w = .illegal why)

/-- CK.HRPHI feeds `byte >> 5` and CK.HRPLO `byte & 31`, for every byte, and each writes nothing else but ERR
(43_checksum.md R153, R154). -/
def Obligations.CkHrpFeedsHighAndLowParts : Prop :=
  ∀ (b : Byte) (s : State),
    decode (0x32000000#32 ||| b.setWidth 32) = .command (.ckHrpHi b) ∧
    decode (0x33000000#32 ||| b.setWidth 32) = .command (.ckHrpLo b) ∧
    exec (.ckHrpHi b) s = .next { s with chk := BitVec.ofNat 30 (Source.polymodStep s.chk.toNat (b.toNat / 32)), err := 0 } ∧
    exec (.ckHrpLo b) s = .next { s with chk := BitVec.ofNat 30 (Source.polymodStep s.chk.toNat (b.toNat % 32)), err := 0 }

/-- CK.FINISH feeds six zeros, leaves the polymod in CHK and that value XORed with the kind's constant in RESULT, and writes
nothing else but ERR; the results of the two kinds differ in exactly 0x2bc830a2 (43_checksum.md R156). -/
def Obligations.CkFinishGivesTheChecksum : Prop :=
  decode 0x34000000 = .command (.ckFinish .bech32) ∧ decode 0x34000001 = .command (.ckFinish .bech32m) ∧
  (∀ (k : Kind) (s : State),
    let c := (List.replicate 6 0).foldl Source.polymodStep s.chk.toNat
    exec (.ckFinish k) s = .next { s with chk := BitVec.ofNat 30 c, result := BitVec.ofNat 32 (c ^^^ Source.const k), err := 0 }) ∧
  (∀ (s t u : State), exec (.ckFinish .bech32) s = .next t → exec (.ckFinish .bech32m) s = .next u →
    t.result ^^^ u.result = 0x2bc830a2)

/-- CK.VERIFY classifies CHK by exact comparison, writes the code to MATCH and RESULT, and nothing else but ERR
(43_checksum.md R158). -/
def Obligations.CkVerifyClassifiesTheResidue : Prop :=
  decode 0x35000000 = .command .ckVerify ∧
  ∀ s : State,
    (s.chk.toNat = 1 → exec .ckVerify s = .next { s with matched := 1, result := 1, err := 0 }) ∧
    (s.chk.toNat = 0x2bc830a3 → exec .ckVerify s = .next { s with matched := 2, result := 2, err := 0 }) ∧
    (s.chk.toNat ≠ 1 → s.chk.toNat ≠ 0x2bc830a3 → exec .ckVerify s = .next { s with matched := 0, result := 0, err := 0 })

/-- The macro `CK.HRP` after CK.INIT leaves `polymod(expandHrp(hrp))` in CHK (43_checksum.md R155). -/
def Obligations.HrpMacroFeedsTheExpansion : Prop :=
  ∀ (hrp : List Byte) (s : State), ∃ t,
    runCommands (.ckInit :: expandHrpMacro hrp) s = some t ∧
    t.chk.toNat = Source.polymod (Source.expandHrp (hrp.map BitVec.toNat))

/-- A whole stream computes the source's polymod, createChecksum and verifyChecksum, with any other commands and illegal
words between its commands (43_checksum.md R159). -/
def Obligations.ChecksumStreamIsTheSources : Prop :=
  (∀ (vs : List Symbol) (ws : List Word) (s : State),
    ws.filterMap (familyWord Instr.isChecksum) = .ckInit :: vs.map .ckSym →
    (∀ w ∈ ws, decode w ≠ .command .rst) →
    ∃ ts t, statesAfter ws s = some ts ∧ (familyStates Instr.isChecksum ws ts).getLast? = some t ∧
      t.chk.toNat = Source.polymod (vs.map BitVec.toNat)) ∧
  (∀ (hrp : List Byte) (p : List Symbol) (k : Kind) (ws : List Word) (s : State),
    ws.filterMap (familyWord Instr.isChecksum) =
      .ckInit :: (expandHrpMacro hrp ++ p.map .ckSym ++ [.ckFinish k]) →
    (∀ w ∈ ws, decode w ≠ .command .rst) →
    ∃ ts t, statesAfter ws s = some ts ∧ (familyStates Instr.isChecksum ws ts).getLast? = some t ∧
      t.result.toNat = Source.checksumValue (hrp.map BitVec.toNat) (p.map BitVec.toNat) k ∧
      Source.checksumSymbols t.result.toNat = Source.createChecksum (hrp.map BitVec.toNat) (p.map BitVec.toNat) k) ∧
  (∀ (hrp : List Byte) (q : List Symbol) (ws : List Word) (s : State),
    ws.filterMap (familyWord Instr.isChecksum) = .ckInit :: (expandHrpMacro hrp ++ q.map .ckSym ++ [.ckVerify]) →
    (∀ w ∈ ws, decode w ≠ .command .rst) →
    ∃ ts t, statesAfter ws s = some ts ∧ (familyStates Instr.isChecksum ws ts).getLast? = some t ∧
      t.matched.toNat = Source.matchCode (Source.verifyChecksum (hrp.map BitVec.toNat) (q.map BitVec.toNat)))

/-- Feeding six symbols is feeding six zeros, XORed with the symbols side by side (43_checksum.md R160). -/
def Obligations.SixSymbolsEnterLinearly : Prop :=
  ∀ (c : Residue) (s0 s1 s2 s3 s4 s5 : Symbol),
    ([s0, s1, s2, s3, s4, s5].foldl polymodStep c).toNat =
      ((List.replicate 6 0).foldl polymodStep c).toNat ^^^
        (s0.toNat * 2 ^ 25 + s1.toNat * 2 ^ 20 + s2.toNat * 2 ^ 15 + s3.toNat * 2 ^ 10 + s4.toNat * 2 ^ 5 + s5.toNat)

/-- A checksum the block creates verifies as its own kind: from any state, the six symbols of CK.FINISH's RESULT, fed from
that same state, make CK.VERIFY report the kind (43_checksum.md R160). -/
def Obligations.CreatedChecksumVerifies : Prop :=
  ∀ (k : Kind) (s : State), ∃ t u x,
    exec (.ckFinish k) s = .next t ∧
    runCommands ((Source.checksumSymbols t.result.toNat).map fun v => .ckSym (BitVec.ofNat 5 v)) s = some u ∧
    u.chk = Config.const k ∧
    exec .ckVerify u = .next x ∧ x.matched.toNat = Source.matchCode (some k)

/-! ### Assembler -/

/-- The word of every line whose operands are in range, the ranges themselves, and that an operand out of its range never
yields an encoding: every encoding a line yields but `.word` is a command, and every command has a line (30_encoding.md
R89). -/
def Obligations.AssemblerYieldsOnlyCommands : Prop :=
  (∀ l : AsmLine, l.wellFormed = false → lineWords l = none ∧ lineEvents l = none) ∧
  (∀ (l : AsmLine) (ws : List Word), lineWords l = some ws → (∀ w, l ≠ .word w) →
    ∀ w ∈ ws, ∃ i, decode w = .command i) ∧
  (∀ i : Instr, ∃ l : AsmLine, l.wellFormed = true ∧ lineWords l = some [encode i]) ∧
  (lineWords .nop = some [0x00000000] ∧ lineWords .rst = some [0x01000000] ∧ lineWords .cvFlush = some [0x22000000] ∧
    lineWords .ckInit = some [0x30000000] ∧ lineWords .ckVerify = some [0x35000000]) ∧
  (∀ v < 32, lineWords (.csEnc v) = some [BitVec.ofNat 32 (0x10000000 + v)] ∧
    lineWords (.ckSym v) = some [BitVec.ofNat 32 (0x31000000 + v)]) ∧
  (∀ b < 256, lineWords (.csDec b) = some [BitVec.ofNat 32 (0x11000000 + b)] ∧
    lineWords (.cvPush b) = some [BitVec.ofNat 32 (0x21000000 + b)] ∧
    lineWords (.ckHrpHi b) = some [BitVec.ofNat 32 (0x32000000 + b)] ∧
    lineWords (.ckHrpLo b) = some [BitVec.ofNat 32 (0x33000000 + b)]) ∧
  (∀ k < 2, lineWords (.ckFinish k) = some [BitVec.ofNat 32 (0x34000000 + k)]) ∧
  (∀ (f t : Nat) (p : Bool), 1 ≤ f → f ≤ 8 → 1 ≤ t → t ≤ 8 → lineWords (.cvInit f t p) =
    some [BitVec.ofNat 32 (0x20000000 + 2 ^ 8 * p.toNat + 2 ^ 4 * (t - 1) + (f - 1))]) ∧
  (∀ w < 2 ^ 32, lineWords (.word w) = some [BitVec.ofNat 32 w]) ∧
  (∀ v, 32 ≤ v → lineWords (.csEnc v) = none ∧ lineWords (.ckSym v) = none) ∧
  (∀ b, 256 ≤ b → lineWords (.csDec b) = none ∧ lineWords (.cvPush b) = none ∧ lineWords (.ckHrpHi b) = none ∧
    lineWords (.ckHrpLo b) = none ∧ ∀ s, b ∈ s → lineWords (.ckHrp s) = none) ∧
  (∀ k, 2 ≤ k → lineWords (.ckFinish k) = none) ∧
  (∀ (f t : Nat) (p : Bool), f = 0 ∨ 8 < f ∨ t = 0 ∨ 8 < t → lineWords (.cvInit f t p) = none) ∧
  (∀ w, 2 ^ 32 ≤ w → lineWords (.word w) = none) ∧
  (∀ (l : AsmLine) (ws : List Word), lineWords l = some ws → (∀ n, l ≠ .read n) →
    lineEvents l = some (ws.map commandEvent)) ∧
  (∀ n ∈ [0x00, 0x04, 0x08, 0x0C, 0x10, 0x14, 0x18, 0x1C],
    lineWords (.read n) = some [] ∧ lineEvents (.read n) = some [readEvent (BitVec.ofNat 5 n)])

/-- The pseudo-instructions expand to the words of 30_encoding.md R90. -/
def Obligations.PseudoInstructionWords : Prop :=
  lineWords .ckHrpSep = some [0x31000000] ∧ lineWords (.ckSym 0) = some [0x31000000] ∧
  lineWords .ckFinishB32 = some [0x34000000] ∧ lineWords (.ckFinish 0) = some [0x34000000] ∧
  lineWords .ckFinishB32m = some [0x34000001] ∧ lineWords (.ckFinish 1) = some [0x34000001] ∧
  lineWords .cvInit85 = some [0x20000147] ∧ lineWords (.cvInit 8 5 true) = some [0x20000147] ∧
  lineWords .cvInit58 = some [0x20000074] ∧ lineWords (.cvInit 5 8 false) = some [0x20000074]

/-- The macro `CK.HRP "s"` expands to `2n + 1` commands, passes the bytes as written, and feeds exactly `expandHrp(s)` into
CHK, from any state (30_encoding.md R91). -/
def Obligations.HrpMacroExpansion : Prop :=
  ∀ s : List Byte,
    lineWords (.ckHrp (s.map BitVec.toNat)) =
      some (s.map (fun b => 0x32000000#32 ||| b.setWidth 32) ++ [0x31000000#32] ++
        s.map (fun b => 0x33000000#32 ||| b.setWidth 32)) ∧
    (expandHrpMacro s).length = 2 * s.length + 1 ∧
    ∀ st : State,
      let c := (Source.expandHrp (s.map BitVec.toNat)).foldl Source.polymodStep st.chk.toNat
      runCommands (expandHrpMacro s) st = some { st with chk := BitVec.ofNat 30 c, err := 0 }
end

