-- ==== Sys2Proof/Laws/State.lean ====
section
/-! SUPPORT. One lemma per field per register update. -/

namespace Sys2Proof.Machine

@[simp] theorem State.setErr_chk (s : State) (e : BitVec 4) : (s.setErr e).chk = s.chk := rfl
@[simp] theorem State.setErr_acc (s : State) (e : BitVec 4) : (s.setErr e).acc = s.acc := rfl
@[simp] theorem State.setErr_nbits (s : State) (e : BitVec 4) : (s.setErr e).nbits = s.nbits := rfl
@[simp] theorem State.setErr_cfgF (s : State) (e : BitVec 4) : (s.setErr e).cfgF = s.cfgF := rfl
@[simp] theorem State.setErr_cfgT (s : State) (e : BitVec 4) : (s.setErr e).cfgT = s.cfgT := rfl
@[simp] theorem State.setErr_cfgP (s : State) (e : BitVec 4) : (s.setErr e).cfgP = s.cfgP := rfl
@[simp] theorem State.setErr_cverr (s : State) (e : BitVec 4) : (s.setErr e).cverr = s.cverr := rfl
@[simp] theorem State.setErr_padx (s : State) (e : BitVec 4) : (s.setErr e).padx = s.padx := rfl
@[simp] theorem State.setErr_padnz (s : State) (e : BitVec 4) : (s.setErr e).padnz = s.padnz := rfl
@[simp] theorem State.setErr_matched (s : State) (e : BitVec 4) : (s.setErr e).matched = s.matched := rfl
@[simp] theorem State.setErr_err (s : State) (e : BitVec 4) : (s.setErr e).err = e := rfl
@[simp] theorem State.setErr_result (s : State) (e : BitVec 4) : (s.setErr e).result = s.result := rfl
@[simp] theorem State.setErr_charset (s : State) (e : BitVec 4) : (s.setErr e).charset = s.charset := rfl
@[simp] theorem State.setErr_pending (s : State) (e : BitVec 4) : (s.setErr e).pending = s.pending := rfl
@[simp] theorem State.setErr_response (s : State) (e : BitVec 4) : (s.setErr e).response = s.response := rfl

@[simp] theorem State.setResult_chk (s : State) (r : Word) : (s.setResult r).chk = s.chk := rfl
@[simp] theorem State.setResult_acc (s : State) (r : Word) : (s.setResult r).acc = s.acc := rfl
@[simp] theorem State.setResult_nbits (s : State) (r : Word) : (s.setResult r).nbits = s.nbits := rfl
@[simp] theorem State.setResult_cfgF (s : State) (r : Word) : (s.setResult r).cfgF = s.cfgF := rfl
@[simp] theorem State.setResult_cfgT (s : State) (r : Word) : (s.setResult r).cfgT = s.cfgT := rfl
@[simp] theorem State.setResult_cfgP (s : State) (r : Word) : (s.setResult r).cfgP = s.cfgP := rfl
@[simp] theorem State.setResult_cverr (s : State) (r : Word) : (s.setResult r).cverr = s.cverr := rfl
@[simp] theorem State.setResult_padx (s : State) (r : Word) : (s.setResult r).padx = s.padx := rfl
@[simp] theorem State.setResult_padnz (s : State) (r : Word) : (s.setResult r).padnz = s.padnz := rfl
@[simp] theorem State.setResult_matched (s : State) (r : Word) : (s.setResult r).matched = s.matched := rfl
@[simp] theorem State.setResult_err (s : State) (r : Word) : (s.setResult r).err = s.err := rfl
@[simp] theorem State.setResult_result (s : State) (r : Word) : (s.setResult r).result = r := rfl
@[simp] theorem State.setResult_charset (s : State) (r : Word) : (s.setResult r).charset = s.charset := rfl
@[simp] theorem State.setResult_pending (s : State) (r : Word) : (s.setResult r).pending = s.pending := rfl
@[simp] theorem State.setResult_response (s : State) (r : Word) : (s.setResult r).response = s.response := rfl

@[simp] theorem State.setChk_chk (s : State) (c : Residue) : (s.setChk c).chk = c := rfl
@[simp] theorem State.setChk_acc (s : State) (c : Residue) : (s.setChk c).acc = s.acc := rfl
@[simp] theorem State.setChk_nbits (s : State) (c : Residue) : (s.setChk c).nbits = s.nbits := rfl
@[simp] theorem State.setChk_cfgF (s : State) (c : Residue) : (s.setChk c).cfgF = s.cfgF := rfl
@[simp] theorem State.setChk_cfgT (s : State) (c : Residue) : (s.setChk c).cfgT = s.cfgT := rfl
@[simp] theorem State.setChk_cfgP (s : State) (c : Residue) : (s.setChk c).cfgP = s.cfgP := rfl
@[simp] theorem State.setChk_cverr (s : State) (c : Residue) : (s.setChk c).cverr = s.cverr := rfl
@[simp] theorem State.setChk_padx (s : State) (c : Residue) : (s.setChk c).padx = s.padx := rfl
@[simp] theorem State.setChk_padnz (s : State) (c : Residue) : (s.setChk c).padnz = s.padnz := rfl
@[simp] theorem State.setChk_matched (s : State) (c : Residue) : (s.setChk c).matched = s.matched := rfl
@[simp] theorem State.setChk_err (s : State) (c : Residue) : (s.setChk c).err = s.err := rfl
@[simp] theorem State.setChk_result (s : State) (c : Residue) : (s.setChk c).result = s.result := rfl
@[simp] theorem State.setChk_charset (s : State) (c : Residue) : (s.setChk c).charset = s.charset := rfl
@[simp] theorem State.setChk_pending (s : State) (c : Residue) : (s.setChk c).pending = s.pending := rfl
@[simp] theorem State.setChk_response (s : State) (c : Residue) : (s.setChk c).response = s.response := rfl

@[simp] theorem State.setMatched_chk (s : State) (m : BitVec 2) : (s.setMatched m).chk = s.chk := rfl
@[simp] theorem State.setMatched_acc (s : State) (m : BitVec 2) : (s.setMatched m).acc = s.acc := rfl
@[simp] theorem State.setMatched_nbits (s : State) (m : BitVec 2) : (s.setMatched m).nbits = s.nbits := rfl
@[simp] theorem State.setMatched_cfgF (s : State) (m : BitVec 2) : (s.setMatched m).cfgF = s.cfgF := rfl
@[simp] theorem State.setMatched_cfgT (s : State) (m : BitVec 2) : (s.setMatched m).cfgT = s.cfgT := rfl
@[simp] theorem State.setMatched_cfgP (s : State) (m : BitVec 2) : (s.setMatched m).cfgP = s.cfgP := rfl
@[simp] theorem State.setMatched_cverr (s : State) (m : BitVec 2) : (s.setMatched m).cverr = s.cverr := rfl
@[simp] theorem State.setMatched_padx (s : State) (m : BitVec 2) : (s.setMatched m).padx = s.padx := rfl
@[simp] theorem State.setMatched_padnz (s : State) (m : BitVec 2) : (s.setMatched m).padnz = s.padnz := rfl
@[simp] theorem State.setMatched_matched (s : State) (m : BitVec 2) : (s.setMatched m).matched = m := rfl
@[simp] theorem State.setMatched_err (s : State) (m : BitVec 2) : (s.setMatched m).err = s.err := rfl
@[simp] theorem State.setMatched_result (s : State) (m : BitVec 2) : (s.setMatched m).result = s.result := rfl
@[simp] theorem State.setMatched_charset (s : State) (m : BitVec 2) : (s.setMatched m).charset = s.charset := rfl
@[simp] theorem State.setMatched_pending (s : State) (m : BitVec 2) : (s.setMatched m).pending = s.pending := rfl
@[simp] theorem State.setMatched_response (s : State) (m : BitVec 2) : (s.setMatched m).response = s.response := rfl

@[simp] theorem State.setBuffer_chk (s : State) (a : BitVec 8) (n : BitVec 4) : (s.setBuffer a n).chk = s.chk := rfl
@[simp] theorem State.setBuffer_acc (s : State) (a : BitVec 8) (n : BitVec 4) : (s.setBuffer a n).acc = a := rfl
@[simp] theorem State.setBuffer_nbits (s : State) (a : BitVec 8) (n : BitVec 4) : (s.setBuffer a n).nbits = n := rfl
@[simp] theorem State.setBuffer_cfgF (s : State) (a : BitVec 8) (n : BitVec 4) : (s.setBuffer a n).cfgF = s.cfgF := rfl
@[simp] theorem State.setBuffer_cfgT (s : State) (a : BitVec 8) (n : BitVec 4) : (s.setBuffer a n).cfgT = s.cfgT := rfl
@[simp] theorem State.setBuffer_cfgP (s : State) (a : BitVec 8) (n : BitVec 4) : (s.setBuffer a n).cfgP = s.cfgP := rfl
@[simp] theorem State.setBuffer_cverr (s : State) (a : BitVec 8) (n : BitVec 4) : (s.setBuffer a n).cverr = s.cverr := rfl
@[simp] theorem State.setBuffer_padx (s : State) (a : BitVec 8) (n : BitVec 4) : (s.setBuffer a n).padx = s.padx := rfl
@[simp] theorem State.setBuffer_padnz (s : State) (a : BitVec 8) (n : BitVec 4) : (s.setBuffer a n).padnz = s.padnz := rfl
@[simp] theorem State.setBuffer_matched (s : State) (a : BitVec 8) (n : BitVec 4) : (s.setBuffer a n).matched = s.matched := rfl
@[simp] theorem State.setBuffer_err (s : State) (a : BitVec 8) (n : BitVec 4) : (s.setBuffer a n).err = s.err := rfl
@[simp] theorem State.setBuffer_result (s : State) (a : BitVec 8) (n : BitVec 4) : (s.setBuffer a n).result = s.result := rfl
@[simp] theorem State.setBuffer_charset (s : State) (a : BitVec 8) (n : BitVec 4) : (s.setBuffer a n).charset = s.charset := rfl
@[simp] theorem State.setBuffer_pending (s : State) (a : BitVec 8) (n : BitVec 4) : (s.setBuffer a n).pending = s.pending := rfl
@[simp] theorem State.setBuffer_response (s : State) (a : BitVec 8) (n : BitVec 4) : (s.setBuffer a n).response = s.response := rfl

@[simp] theorem State.setConfig_chk (s : State) (f t : BitVec 3) (p : Bool) : (s.setConfig f t p).chk = s.chk := rfl
@[simp] theorem State.setConfig_acc (s : State) (f t : BitVec 3) (p : Bool) : (s.setConfig f t p).acc = s.acc := rfl
@[simp] theorem State.setConfig_nbits (s : State) (f t : BitVec 3) (p : Bool) : (s.setConfig f t p).nbits = s.nbits := rfl
@[simp] theorem State.setConfig_cfgF (s : State) (f t : BitVec 3) (p : Bool) : (s.setConfig f t p).cfgF = f := rfl
@[simp] theorem State.setConfig_cfgT (s : State) (f t : BitVec 3) (p : Bool) : (s.setConfig f t p).cfgT = t := rfl
@[simp] theorem State.setConfig_cfgP (s : State) (f t : BitVec 3) (p : Bool) : (s.setConfig f t p).cfgP = p := rfl
@[simp] theorem State.setConfig_cverr (s : State) (f t : BitVec 3) (p : Bool) : (s.setConfig f t p).cverr = s.cverr := rfl
@[simp] theorem State.setConfig_padx (s : State) (f t : BitVec 3) (p : Bool) : (s.setConfig f t p).padx = s.padx := rfl
@[simp] theorem State.setConfig_padnz (s : State) (f t : BitVec 3) (p : Bool) : (s.setConfig f t p).padnz = s.padnz := rfl
@[simp] theorem State.setConfig_matched (s : State) (f t : BitVec 3) (p : Bool) : (s.setConfig f t p).matched = s.matched := rfl
@[simp] theorem State.setConfig_err (s : State) (f t : BitVec 3) (p : Bool) : (s.setConfig f t p).err = s.err := rfl
@[simp] theorem State.setConfig_result (s : State) (f t : BitVec 3) (p : Bool) : (s.setConfig f t p).result = s.result := rfl
@[simp] theorem State.setConfig_charset (s : State) (f t : BitVec 3) (p : Bool) : (s.setConfig f t p).charset = s.charset := rfl
@[simp] theorem State.setConfig_pending (s : State) (f t : BitVec 3) (p : Bool) : (s.setConfig f t p).pending = s.pending := rfl
@[simp] theorem State.setConfig_response (s : State) (f t : BitVec 3) (p : Bool) : (s.setConfig f t p).response = s.response := rfl

@[simp] theorem State.setConverterError_chk (s : State) (e : BitVec 2) (x nz : Bool) : (s.setConverterError e x nz).chk = s.chk := rfl
@[simp] theorem State.setConverterError_acc (s : State) (e : BitVec 2) (x nz : Bool) : (s.setConverterError e x nz).acc = s.acc := rfl
@[simp] theorem State.setConverterError_nbits (s : State) (e : BitVec 2) (x nz : Bool) : (s.setConverterError e x nz).nbits = s.nbits := rfl
@[simp] theorem State.setConverterError_cfgF (s : State) (e : BitVec 2) (x nz : Bool) : (s.setConverterError e x nz).cfgF = s.cfgF := rfl
@[simp] theorem State.setConverterError_cfgT (s : State) (e : BitVec 2) (x nz : Bool) : (s.setConverterError e x nz).cfgT = s.cfgT := rfl
@[simp] theorem State.setConverterError_cfgP (s : State) (e : BitVec 2) (x nz : Bool) : (s.setConverterError e x nz).cfgP = s.cfgP := rfl
@[simp] theorem State.setConverterError_cverr (s : State) (e : BitVec 2) (x nz : Bool) : (s.setConverterError e x nz).cverr = e := rfl
@[simp] theorem State.setConverterError_padx (s : State) (e : BitVec 2) (x nz : Bool) : (s.setConverterError e x nz).padx = x := rfl
@[simp] theorem State.setConverterError_padnz (s : State) (e : BitVec 2) (x nz : Bool) : (s.setConverterError e x nz).padnz = nz := rfl
@[simp] theorem State.setConverterError_matched (s : State) (e : BitVec 2) (x nz : Bool) : (s.setConverterError e x nz).matched = s.matched := rfl
@[simp] theorem State.setConverterError_err (s : State) (e : BitVec 2) (x nz : Bool) : (s.setConverterError e x nz).err = s.err := rfl
@[simp] theorem State.setConverterError_result (s : State) (e : BitVec 2) (x nz : Bool) : (s.setConverterError e x nz).result = s.result := rfl
@[simp] theorem State.setConverterError_charset (s : State) (e : BitVec 2) (x nz : Bool) : (s.setConverterError e x nz).charset = s.charset := rfl
@[simp] theorem State.setConverterError_pending (s : State) (e : BitVec 2) (x nz : Bool) : (s.setConverterError e x nz).pending = s.pending := rfl
@[simp] theorem State.setConverterError_response (s : State) (e : BitVec 2) (x nz : Bool) : (s.setConverterError e x nz).response = s.response := rfl

@[simp] theorem State.setPending_chk (s : State) (es : List Event) : (s.setPending es).chk = s.chk := rfl
@[simp] theorem State.setPending_acc (s : State) (es : List Event) : (s.setPending es).acc = s.acc := rfl
@[simp] theorem State.setPending_nbits (s : State) (es : List Event) : (s.setPending es).nbits = s.nbits := rfl
@[simp] theorem State.setPending_cfgF (s : State) (es : List Event) : (s.setPending es).cfgF = s.cfgF := rfl
@[simp] theorem State.setPending_cfgT (s : State) (es : List Event) : (s.setPending es).cfgT = s.cfgT := rfl
@[simp] theorem State.setPending_cfgP (s : State) (es : List Event) : (s.setPending es).cfgP = s.cfgP := rfl
@[simp] theorem State.setPending_cverr (s : State) (es : List Event) : (s.setPending es).cverr = s.cverr := rfl
@[simp] theorem State.setPending_padx (s : State) (es : List Event) : (s.setPending es).padx = s.padx := rfl
@[simp] theorem State.setPending_padnz (s : State) (es : List Event) : (s.setPending es).padnz = s.padnz := rfl
@[simp] theorem State.setPending_matched (s : State) (es : List Event) : (s.setPending es).matched = s.matched := rfl
@[simp] theorem State.setPending_err (s : State) (es : List Event) : (s.setPending es).err = s.err := rfl
@[simp] theorem State.setPending_result (s : State) (es : List Event) : (s.setPending es).result = s.result := rfl
@[simp] theorem State.setPending_charset (s : State) (es : List Event) : (s.setPending es).charset = s.charset := rfl
@[simp] theorem State.setPending_pending (s : State) (es : List Event) : (s.setPending es).pending = es := rfl
@[simp] theorem State.setPending_response (s : State) (es : List Event) : (s.setPending es).response = s.response := rfl

@[simp] theorem State.setResponse_chk (s : State) (r : Option Response) : (s.setResponse r).chk = s.chk := rfl
@[simp] theorem State.setResponse_acc (s : State) (r : Option Response) : (s.setResponse r).acc = s.acc := rfl
@[simp] theorem State.setResponse_nbits (s : State) (r : Option Response) : (s.setResponse r).nbits = s.nbits := rfl
@[simp] theorem State.setResponse_cfgF (s : State) (r : Option Response) : (s.setResponse r).cfgF = s.cfgF := rfl
@[simp] theorem State.setResponse_cfgT (s : State) (r : Option Response) : (s.setResponse r).cfgT = s.cfgT := rfl
@[simp] theorem State.setResponse_cfgP (s : State) (r : Option Response) : (s.setResponse r).cfgP = s.cfgP := rfl
@[simp] theorem State.setResponse_cverr (s : State) (r : Option Response) : (s.setResponse r).cverr = s.cverr := rfl
@[simp] theorem State.setResponse_padx (s : State) (r : Option Response) : (s.setResponse r).padx = s.padx := rfl
@[simp] theorem State.setResponse_padnz (s : State) (r : Option Response) : (s.setResponse r).padnz = s.padnz := rfl
@[simp] theorem State.setResponse_matched (s : State) (r : Option Response) : (s.setResponse r).matched = s.matched := rfl
@[simp] theorem State.setResponse_err (s : State) (r : Option Response) : (s.setResponse r).err = s.err := rfl
@[simp] theorem State.setResponse_result (s : State) (r : Option Response) : (s.setResponse r).result = s.result := rfl
@[simp] theorem State.setResponse_charset (s : State) (r : Option Response) : (s.setResponse r).charset = s.charset := rfl
@[simp] theorem State.setResponse_pending (s : State) (r : Option Response) : (s.setResponse r).pending = s.pending := rfl
@[simp] theorem State.setResponse_response (s : State) (r : Option Response) : (s.setResponse r).response = r := rfl

@[simp] theorem State.resetRegisters_chk (s : State) : s.resetRegisters.chk = 1 := rfl
@[simp] theorem State.resetRegisters_acc (s : State) : s.resetRegisters.acc = 0 := rfl
@[simp] theorem State.resetRegisters_nbits (s : State) : s.resetRegisters.nbits = 0 := rfl
@[simp] theorem State.resetRegisters_cfgF (s : State) : s.resetRegisters.cfgF = 7 := rfl
@[simp] theorem State.resetRegisters_cfgT (s : State) : s.resetRegisters.cfgT = 4 := rfl
@[simp] theorem State.resetRegisters_cfgP (s : State) : s.resetRegisters.cfgP = true := rfl
@[simp] theorem State.resetRegisters_cverr (s : State) : s.resetRegisters.cverr = 0 := rfl
@[simp] theorem State.resetRegisters_padx (s : State) : s.resetRegisters.padx = false := rfl
@[simp] theorem State.resetRegisters_padnz (s : State) : s.resetRegisters.padnz = false := rfl
@[simp] theorem State.resetRegisters_matched (s : State) : s.resetRegisters.matched = 0 := rfl
@[simp] theorem State.resetRegisters_err (s : State) : s.resetRegisters.err = 0 := rfl
@[simp] theorem State.resetRegisters_result (s : State) : s.resetRegisters.result = 0 := rfl
@[simp] theorem State.resetRegisters_charset (s : State) : s.resetRegisters.charset = s.charset := rfl
@[simp] theorem State.resetRegisters_pending (s : State) : s.resetRegisters.pending = s.pending := rfl
@[simp] theorem State.resetRegisters_response (s : State) : s.resetRegisters.response = s.response := rfl

end Sys2Proof.Machine
end

