-- ==== Sys2Proof/Laws/Ops.lean ====
section
/-! SUPPORT. What ending a command, raising an error and resetting do. -/

namespace Sys2Proof.Machine

/-- Ending a command: the only next state is the argument with ERR = 0. -/
theorem complete_next (s t : State) : complete s = .next t ↔ t = s.setErr 0 := by
  simp [complete, ErrorCode.code, eq_comm]

/-- Raising an error: the only next state is the argument with ERR = the code (60_exceptions.md R201). -/
theorem raise_next (e : ErrorCode) (s t : State) : raise e s = .next t ↔ t = s.setErr e.code := by
  simp [raise, eq_comm]

/-- The codes of 60_exceptions.md R201 are 0 to 5. -/
theorem ErrorCode.code_le (e : ErrorCode) : e.code.toNat ≤ 5 := by
  cases e <;> decide

/-- The codes of 60_exceptions.md R201 are distinct. -/
theorem ErrorCode.code_injective (e f : ErrorCode) : e.code = f.code ↔ e = f := by
  cases e <;> cases f <;> decide

/-- Resetting twice is resetting once. -/
@[simp] theorem State.resetRegisters_resetRegisters (s : State) : s.resetRegisters.resetRegisters = s.resetRegisters :=
  rfl

/-- Resetting the reset state changes nothing. -/
@[simp] theorem State.reset_resetRegisters : State.reset.resetRegisters = State.reset := rfl

end Sys2Proof.Machine
end

