-- ==== Sys2Proof/Laws/Exec.lean ====
section
/-! SUPPORT. What each command can do, said once: the state it leads to, or the cases it distinguishes. -/

namespace Sys2Proof.Machine

/-- CS.DEC leads to one of two states. -/
theorem execCsDec_next (b : Byte) (s t : State) :
    execCsDec b s = .next t ↔
      (∃ i, charIndex s.charset b = some i ∧ t = (s.setResult (memberWord i)).setErr 0) ∨
      (charIndex s.charset b = none ∧ t = (s.setResult 0).setErr 4) := by
  unfold execCsDec
  cases charIndex s.charset b <;> simp [complete_next, raise_next, ErrorCode.code]

/-- CV.PUSH leads to one of three states. -/
theorem execCvPush_next (b : Byte) (s t : State) :
    execCvPush b s = .next t ↔
      (s.cverr ≠ 0 ∧ t = (s.setResult 0).setErr 5) ∨
      (s.cverr = 0 ∧ lowMask s.fromBits < b.toNat ∧
        t = ((s.setConverterError 1 s.padx s.padnz).setResult 0).setErr 2) ∨
      (s.cverr = 0 ∧ b.toNat ≤ lowMask s.fromBits ∧ t = (pushAccepted b s).setErr 0) := by
  unfold execCvPush converterAborted
  by_cases h : s.cverr = 0#2 <;> by_cases h' : lowMask s.fromBits < b.toNat <;>
    simp [h, h', complete_next, raise_next, ErrorCode.code, cverrInputRange, Nat.not_le.mpr,
      Nat.le_of_not_lt]

/-- CV.FLUSH leads to one of four states. -/
theorem execCvFlush_next (s t : State) :
    execCvFlush s = .next t ↔
      (s.cverr ≠ 0 ∧ t = (s.setResult 0).setErr 5) ∨
      (s.cverr = 0 ∧ s.cfgP = true ∧ t = ((s.setResult (padResult s)).setBuffer 0 0).setErr 0) ∨
      (s.cverr = 0 ∧ s.cfgP = false ∧ s.padInvalid = true ∧
        t = ((s.setConverterError 2 s.tooManyLeft s.nonZeroLeft).setResult 0).setErr 3) ∨
      (s.cverr = 0 ∧ s.cfgP = false ∧ s.padInvalid = false ∧ t = ((s.setResult 0).setBuffer 0 0).setErr 0) := by
  unfold execCvFlush converterAborted
  by_cases h : s.cverr = 0#2 <;> cases h1 : s.cfgP <;> cases h2 : s.padInvalid <;>
    simp [h, complete_next, raise_next, ErrorCode.code, cverrInvalidPadding]

/-- Every command answers a next state, in every state. -/
theorem exec_answers_next (i : Instr) (s : State) : ∃ t, exec i s = .next t := by
  cases i with
  | csDec b =>
    simp only [exec, execCsDec_next]
    cases h : charIndex s.charset b with
    | some i => exact ⟨_, .inl ⟨i, rfl, rfl⟩⟩
    | none => exact ⟨_, .inr ⟨rfl, rfl⟩⟩
  | cvPush b =>
    simp only [exec, execCvPush_next]
    rcases eq_or_ne s.cverr 0 with h | h
    · rcases Nat.lt_or_ge (lowMask s.fromBits) b.toNat with h' | h'
      · exact ⟨_, .inr (.inl ⟨h, h', rfl⟩)⟩
      · exact ⟨_, .inr (.inr ⟨h, h', rfl⟩)⟩
    · exact ⟨_, .inl ⟨h, rfl⟩⟩
  | cvFlush =>
    simp only [exec, execCvFlush_next]
    rcases eq_or_ne s.cverr 0 with h | h
    · cases h1 : s.cfgP
      · cases h2 : s.padInvalid
        · exact ⟨_, .inr (.inr (.inr ⟨h, rfl, rfl, rfl⟩))⟩
        · exact ⟨_, .inr (.inr (.inl ⟨h, rfl, rfl, rfl⟩))⟩
      · exact ⟨_, .inr (.inl ⟨h, rfl, rfl⟩)⟩
    · exact ⟨_, .inl ⟨h, rfl⟩⟩
  | _ => exact ⟨_, rfl⟩

/-- No command touches the alphabet or the model's own fields. -/
theorem exec_frame (i : Instr) (s t : State) (h : exec i s = .next t) :
    t.charset = s.charset ∧ t.pending = s.pending ∧ t.response = s.response := by
  cases i with
  | csDec b => rcases (execCsDec_next b s t).1 h with ⟨_, _, rfl⟩ | ⟨_, rfl⟩ <;> simp
  | cvPush b => rcases (execCvPush_next b s t).1 h with ⟨_, rfl⟩ | ⟨_, _, rfl⟩ | ⟨_, _, rfl⟩ <;> simp [pushAccepted]
  | cvFlush =>
    rcases (execCvFlush_next s t).1 h with ⟨_, rfl⟩ | ⟨_, _, rfl⟩ | ⟨_, _, _, rfl⟩ | ⟨_, _, _, rfl⟩ <;> simp
  | _ => cases h; exact ⟨rfl, rfl, rfl⟩

end Sys2Proof.Machine
end

