-- ==== Sys2Proof/Laws/Bus.lean ====
section
/-! SUPPORT. What executing a word, serving an access and taking an event can do, said once. -/

namespace Sys2Proof.Machine

/-- Executing a word is executing the command it decodes to, or setting ERR to 1. -/
theorem execute_next (w : Word) (s t : State) :
    execute w s = .next t ↔
      (∃ i, decode w = .command i ∧ exec i s = .next t) ∨ (∃ why, decode w = .illegal why ∧ t = s.setErr 1) := by
  unfold execute
  cases decode w <;> simp [raise_next, ErrorCode.code]

/-- Every word, illegal ones too, answers a next state. -/
theorem execute_answers_next (w : Word) (s : State) : ∃ t, execute w s = .next t := by
  unfold execute
  cases decode w with
  | command i => exact exec_answers_next i s
  | illegal _ => exact ⟨_, rfl⟩

/-- Executing a word touches neither the alphabet nor the model's own fields. -/
theorem execute_frame (w : Word) (s t : State) (h : execute w s = .next t) :
    t.charset = s.charset ∧ t.pending = s.pending ∧ t.response = s.response := by
  rcases (execute_next w s t).1 h with ⟨i, _, h⟩ | ⟨_, _, rfl⟩
  · exact exec_frame i s t h
  · exact ⟨rfl, rfl, rfl⟩

/-- An admitted write to CMD executes its word. -/
theorem performEvent_command (e : Event) (w : Word) (s : State) (h : e.commandWord = some w) :
    performEvent e s = writeCommand w s := by
  cases e with
  | idle => simp [Event.commandWord] at h
  | reset _ => simp [Event.commandWord] at h
  | access a =>
    simp only [Event.commandWord, Option.ite_none_right_eq_some, Bool.and_eq_true, beq_iff_eq, Option.some.injEq] at h
    obtain ⟨⟨⟨ha, hwe⟩, haddr⟩, rfl⟩ := h
    simp [performEvent, performAccess, ha, hwe, haddr]

/-- Any event that is no command and no reset input changes at most the answer at the ports. -/
theorem performEvent_other (e : Event) (s : State) (h : e.commandWord = none) (hr : ∀ a, e ≠ .reset a) :
    ∃ r, performEvent e s = .next (s.setResponse r) := by
  cases e with
  | idle => exact ⟨_, rfl⟩
  | reset a => exact absurd rfl (hr a)
  | access a =>
    cases h1 : a.admitted <;> cases h2 : a.we <;> by_cases h3 : a.addr = 0 <;>
      simp_all [performEvent, performAccess, respond, Event.commandWord]

/-- What a write to CMD leads to. -/
theorem writeCommand_next (w : Word) (s t : State) :
    writeCommand w s = .next t ↔ ∃ u, execute w s = .next u ∧ t = u.setResponse (some .ack) := by
  unfold writeCommand
  obtain ⟨u, hu⟩ := execute_answers_next w s
  simp [hu, respond, eq_comm]

/-- The three things an event can do: run a command, reset the block, or change nothing but the answer. -/
theorem performEvent_cases (e : Event) (s t : State) (h : performEvent e s = .next t) :
    (∃ w u, e.commandWord = some w ∧ execute w s = .next u ∧ t = u.setResponse (some .ack)) ∨
    (∃ a, e = .reset a ∧ t = s.resetRegisters.setResponse none) ∨
    (e.commandWord = none ∧ (∀ a, e ≠ .reset a) ∧ ∃ r, t = s.setResponse r) := by
  cases hw : e.commandWord with
  | some w =>
    rw [performEvent_command e w s hw, writeCommand_next] at h
    obtain ⟨u, hu, rfl⟩ := h
    exact .inl ⟨w, u, rfl, hu, rfl⟩
  | none =>
    by_cases hr : ∃ a, e = .reset a
    · obtain ⟨a, rfl⟩ := hr
      cases h
      exact .inr (.inl ⟨a, rfl, rfl⟩)
    · have hr' : ∀ a, e ≠ .reset a := fun a ha => hr ⟨a, ha⟩
      obtain ⟨r, hr2⟩ := performEvent_other e s hw hr'
      rw [hr2] at h
      cases h
      exact .inr (.inr ⟨rfl, hr', r, rfl⟩)

/-- Every event answers a next state. -/
theorem performEvent_answers_next (e : Event) (s : State) : ∃ t, performEvent e s = .next t := by
  cases hw : e.commandWord with
  | some w =>
    obtain ⟨u, hu⟩ := execute_answers_next w s
    exact ⟨_, by rw [performEvent_command e w s hw, writeCommand_next]; exact ⟨u, hu, rfl⟩⟩
  | none =>
    by_cases hr : ∃ a, e = .reset a
    · obtain ⟨a, rfl⟩ := hr; exact ⟨_, rfl⟩
    · obtain ⟨r, h⟩ := performEvent_other e s hw fun a ha => hr ⟨a, ha⟩
      exact ⟨_, h⟩

/-- A step takes the first pending event. -/
theorem step_cons (s : State) (e : Event) (rest : List Event) (h : s.pending = e :: rest) :
    step s = performEvent e (s.setPending rest) := by
  simp [step, takeEvent, h]

/-- With no event pending a step is an idle slot. -/
theorem step_nil (s : State) (h : s.pending = []) : step s = .next (s.setResponse none) := by
  simp [step, takeEvent, h, performEvent]

end Sys2Proof.Machine
end

