-- ==== Sys2Proof/Laws/Charset.lean ====
section
/-! SUPPORT. The alphabet's two maps (41_charset.md R100, R101). -/

namespace Sys2Proof.Machine

theorem mem_allSymbols : ∀ v : Symbol, v ∈ allSymbols := by
  decide

/-- The ROM entry of a symbol, by its number. -/
theorem charAt_eq_getElem (rom : Vector Byte 32) (v : Symbol) : charAt rom v = rom[v.toNat]'v.isLt := rfl

/-- The entries of a well-formed alphabet are distinct. -/
theorem charAt_injective (rom : Vector Byte 32) (h : CharsetWellFormed rom) (v w : Symbol)
    (e : charAt rom v = charAt rom w) : v = w := by
  have hv : v.toNat < rom.toList.length := by simpa using v.isLt
  have hw : w.toNat < rom.toList.length := by simpa using w.isLt
  apply BitVec.eq_of_toNat_eq
  exact (h.1.getElem_inj_iff (hi := hv) (hj := hw)).1 (by simpa [charAt_eq_getElem] using e)

/-- An index found is an index of the folded byte. -/
theorem charAt_of_charIndex (rom : Vector Byte 32) (b : Byte) (i : Symbol) (h : charIndex rom b = some i) :
    charAt rom i = foldCase b := by
  simpa using List.find?_some h

/-- No index is found exactly when no entry is the folded byte. -/
theorem charIndex_eq_none (rom : Vector Byte 32) (b : Byte) :
    charIndex rom b = none ↔ ∀ i, charAt rom i ≠ foldCase b := by
  simp only [charIndex, List.find?_eq_none, beq_iff_eq]
  exact ⟨fun h i => h i (mem_allSymbols i), fun h i _ => h i⟩

/-- In a well-formed alphabet the index found is the unique one (41_charset.md R101). -/
theorem charIndex_eq_some (rom : Vector Byte 32) (hw : CharsetWellFormed rom) (b : Byte) (i : Symbol) :
    charIndex rom b = some i ↔ charAt rom i = foldCase b := by
  constructor
  · exact charAt_of_charIndex rom b i
  · intro h
    cases hc : charIndex rom b with
    | none => exact absurd h ((charIndex_eq_none rom b).1 hc i)
    | some j =>
      rw [charAt_injective rom hw j i ((charAt_of_charIndex rom b j hc).trans h.symm)]

/-- A byte is a member exactly when some entry is the folded byte (41_charset.md R101). -/
theorem isMember_iff (rom : Vector Byte 32) (b : Byte) : isMember rom b = true ↔ ∃ i, charAt rom i = foldCase b := by
  unfold isMember
  cases h : charIndex rom b with
  | none => simpa using (charIndex_eq_none rom b).1 h
  | some i => simpa using ⟨i, charAt_of_charIndex rom b i h⟩

/-- A well-formed alphabet holds every one of the 32 legal characters (00_scope.md R6: it is a permutation of them). -/
theorem charset_perm (rom : Vector Byte 32) (h : CharsetWellFormed rom) : rom.toList.Perm Config.legalCharacters := by
  have hs : rom.toList.Subperm Config.legalCharacters := h.1.subperm h.2
  exact hs.perm_of_length_le (by simp [Config.legalCharacters])

/-- The characters of a well-formed alphabet are exactly the legal ones. -/
theorem exists_charAt_iff (rom : Vector Byte 32) (h : CharsetWellFormed rom) (c : Byte) :
    (∃ i, charAt rom i = c) ↔ c ∈ Config.legalCharacters := by
  rw [← (charset_perm rom h).mem_iff, List.mem_iff_getElem]
  constructor
  · rintro ⟨i, rfl⟩
    exact ⟨i.toNat, by simpa using i.isLt, by simp [charAt_eq_getElem]⟩
  · rintro ⟨n, hn, rfl⟩
    have hn' : n < 32 := by simpa using hn
    refine ⟨BitVec.ofNat 5 n, ?_⟩
    simp [charAt_eq_getElem, Nat.mod_eq_of_lt hn']

/-- CS.DEC's RESULT for a member is 0x100 plus the index (41_charset.md R103). -/
theorem memberWord_eq : ∀ i : Symbol, memberWord i = 0x100#32 ||| i.setWidth 32 := by
  decide

end Sys2Proof.Machine
end

