-- ==== Sys2Proof/Laws/Checksum.lean ====
section
/-! SUPPORT. The polymod step as a shift, an input and a feedback term, and how an input below the feedback enters it
(43_checksum.md R150, R160). -/

namespace Sys2Proof.Machine

/-- What the bits shifted out of the generator register feed back. -/
def feedback (top : BitVec 5) : Residue :=
  (if top.getLsbD 0 then Config.gen 0 else 0) ^^^ (if top.getLsbD 1 then Config.gen 1 else 0) ^^^
  (if top.getLsbD 2 then Config.gen 2 else 0) ^^^ (if top.getLsbD 3 then Config.gen 3 else 0) ^^^
  (if top.getLsbD 4 then Config.gen 4 else 0)

theorem xor_if (b : Bool) (x g : Residue) : (if b then x ^^^ g else x) = x ^^^ (if b then g else 0) := by
  cases b <;> simp

/-- The step is the shifted register, the input and the feedback, XORed (43_checksum.md R150). -/
theorem polymodStep_eq (c : Residue) (v : Symbol) :
    polymodStep c v = ((c &&& 0x1FFFFFF) <<< 5) ^^^ v.setWidth 30 ^^^ feedback (c.extractLsb' 25 5) := by
  simp only [polymodStep, List.foldl, xor_if]
  unfold feedback
  simp only [← BitVec.xor_assoc]
  rfl

/-- A number below 2^25 has no bit in the part that is fed back. -/
theorem getLsbD_of_small (d : Residue) (h : d.toNat < 2 ^ 25) (i : Nat) (hi : 25 ≤ i) : d.getLsbD i = false := by
  rw [BitVec.getLsbD, Nat.testBit_eq_false_of_lt]
  exact Nat.lt_of_lt_of_le h (Nat.pow_le_pow_right (by decide) hi)

/-- Inputs below the feedback pass through a step shifted left by 5 bits (43_checksum.md R160). -/
theorem polymodStep_xor_small (c d : Residue) (v : Symbol) (h : d.toNat < 2 ^ 25) :
    polymodStep (c ^^^ d) v = polymodStep c v ^^^ (d <<< 5) := by
  have htop : (c ^^^ d).extractLsb' 25 5 = c.extractLsb' 25 5 := by
    ext i hi
    simp [getLsbD_of_small d h (25 + i) (by omega)]
  have hand : (c ^^^ d) &&& 0x1FFFFFF = (c &&& 0x1FFFFFF) ^^^ d := by
    have hd : d &&& 0x1FFFFFF = d := by
      apply BitVec.eq_of_toNat_eq
      rw [BitVec.toNat_and]
      exact (Nat.and_two_pow_sub_one_eq_mod _ 25).trans (Nat.mod_eq_of_lt h)
    have hb : ∀ a b m : Bool, ((a ^^ b) && m) = ((a && m) ^^ (b && m)) := by decide
    have hx : (c ^^^ d) &&& 0x1FFFFFF = (c &&& 0x1FFFFFF) ^^^ (d &&& 0x1FFFFFF) := by
      ext i hi
      simp only [BitVec.getElem_and, BitVec.getElem_xor]
      exact hb _ _ _
    rw [hx, hd]
  rw [polymodStep_eq, polymodStep_eq, htop, hand, BitVec.shiftLeft_xor_distrib]
  ac_rfl

/-- The input of a step is XORed into the step on zero. -/
theorem polymodStep_input (c : Residue) (v : Symbol) : polymodStep c v = polymodStep c 0 ^^^ v.setWidth 30 := by
  rw [polymodStep_eq, polymodStep_eq]
  simp
  ac_rfl

/-- Feeding zeros one by one. -/
theorem polymodZeros_eq_foldl (n : Nat) (c : Residue) : polymodZeros n c = (List.replicate n 0).foldl polymodStep c := by
  induction n generalizing c with
  | zero => rfl
  | succ n ih => simp [polymodZeros, ih, List.replicate_succ]

/-- The high part of a byte as a number (43_checksum.md R153). -/
theorem hrpHigh_toNat : ∀ b : Byte, (hrpHigh b).toNat = b.toNat / 32 := by
  decide

/-- The low part of a byte as a number (43_checksum.md R154). -/
theorem hrpLow_toNat : ∀ b : Byte, (hrpLow b).toNat = b.toNat % 32 := by
  decide

end Sys2Proof.Machine
end

