-- ==== Sys2Proof/Laws/Converter.lean ====
section
/-! SUPPORT. The converter's arithmetic: the source's emission loop in closed form, and RESULT's fields (42_bitconv.md R122,
R123, R128). -/

namespace Sys2Proof.Source

/-- The bits left when no whole group is (42_bitconv.md, opening quotation). -/
theorem drain_snd (toBits acc : Nat) (ht : 0 < toBits) (fuel n : Nat) (h : n ≤ fuel) :
    (drain toBits acc fuel n).2 = n % toBits := by
  induction fuel generalizing n with
  | zero => simp [drain, Nat.le_zero.1 h]
  | succ fuel ih =>
    unfold drain
    split
    · rename_i hn
      exact (ih _ (by omega)).trans (Nat.mod_eq_sub_mod hn).symm
    · rw [Nat.mod_eq_of_lt (by omega)]

/-- The groups emitted, oldest first: group `j` is the bits below the first `j` groups (42_bitconv.md R122). -/
theorem drain_fst (toBits acc : Nat) (ht : 0 < toBits) (fuel n : Nat) (h : n ≤ fuel) :
    (drain toBits acc fuel n).1 =
      (List.range (n / toBits)).map fun j => (acc >>> (n - (j + 1) * toBits)) &&& (2 ^ toBits - 1) := by
  induction fuel generalizing n with
  | zero => simp [drain, Nat.le_zero.1 h]
  | succ fuel ih =>
    unfold drain
    split
    · rename_i hn
      rw [Nat.div_eq_sub_div ht hn, List.range_succ_eq_map]
      simp only [List.map_cons, List.map_map, ih (n - toBits) (by omega)]
      refine List.cons_eq_cons.2 ⟨by simp, List.map_congr_left fun j _ => ?_⟩
      simp only [Function.comp, Nat.succ_eq_add_one]
      rw [show n - toBits - (j + 1) * toBits = n - (j + 1 + 1) * toBits by
        rw [Nat.sub_sub]; congr 1; ring]
    · rw [Nat.div_eq_of_lt (by omega)]; rfl

/-- How many groups are emitted. -/
theorem drain_length (toBits acc : Nat) (ht : 0 < toBits) (fuel n : Nat) (h : n ≤ fuel) :
    (drain toBits acc fuel n).1.length = n / toBits := by
  simp [drain_fst toBits acc ht fuel n h]

end Sys2Proof.Source

namespace Sys2Proof.Machine

/-- RESULT's fields as a number (42_bitconv.md R123). -/
theorem groupsWord_toNat (count out : Nat) (hc : count < 16) (ho : out < 2 ^ 15) :
    (groupsWord count out).toNat = 2 ^ 16 * count + out := by
  simp only [groupsWord, BitVec.toNat_setWidth, BitVec.toNat_append, BitVec.toNat_ofNat]
  rw [Nat.mod_eq_of_lt ho, Nat.mod_eq_of_lt (show count < 2 ^ 4 by omega),
    ← Nat.shiftLeft_add_eq_or_of_lt ho, ← Nat.shiftLeft_add_eq_or_of_lt (by decide)]
  simp [Nat.shiftLeft_eq]
  omega

/-- What a host takes out of RESULT is what was put in (42_bitconv.md R123). -/
theorem unpack_groupsWord (toBits count out : Nat) (hc : count < 16) (ho : out < 2 ^ 15) :
    Source.unpack toBits (groupsWord count out) =
      (List.range count).map fun j => (out >>> (toBits * (count - 1 - j))) &&& (2 ^ toBits - 1) := by
  have h := groupsWord_toNat count out hc ho
  have hO : ((groupsWord count out).extractLsb' 0 15).toNat = out := by
    rw [BitVec.extractLsb'_toNat, h]; simp; omega
  have hC : ((groupsWord count out).extractLsb' 16 4).toNat = count := by
    rw [BitVec.extractLsb'_toNat, h, Nat.shiftRight_eq_div_pow]; omega
  simp only [Source.unpack, hO, hC]

/-- In a state that meets the invariants an accepted input buffers at most 15 bits (42_bitconv.md R122). -/
theorem buffered_le (s : State) (h : s.nbits.toNat ≤ s.cfgT.toNat) : s.nbits.toNat + s.fromBits ≤ 15 := by
  have := s.cfgF.isLt
  have := s.cfgT.isLt
  simp only [State.fromBits]
  omega

end Sys2Proof.Machine
end

