-- ==== Sys2Proof/Laws/Decode.lean ====
section
/-! SUPPORT. What the encoder's formats put where, and what the decoder reads there (30_encoding.md R81 to R83). -/

namespace Sys2Proof

@[simp] theorem fieldOP_formatN (op : BitVec 8) : fieldOP (formatN op) = op := by
  ext i hi; simp [fieldOP, formatN]; grind

@[simp] theorem fieldOP_formatS (op : BitVec 8) (v : Symbol) : fieldOP (formatS op v) = op := by
  ext i hi; simp [fieldOP, formatS, formatN]; grind

@[simp] theorem fieldOP_formatB (op : BitVec 8) (b : Byte) : fieldOP (formatB op b) = op := by
  ext i hi; simp [fieldOP, formatB, formatN]; grind

@[simp] theorem fieldOP_formatK (op : BitVec 8) (k : Kind) : fieldOP (formatK op k) = op := by
  ext i hi; simp [fieldOP, formatK, formatN]; grind

@[simp] theorem fieldOP_formatC (op : BitVec 8) (f t : BitVec 3) (p : Bool) : fieldOP (formatC op f t p) = op := by
  ext i hi; simp [fieldOP, formatC, formatN]; grind

@[simp] theorem fieldV_formatS (op : BitVec 8) (v : Symbol) : fieldV (formatS op v) = v := by
  ext i hi; simp [fieldV, formatS, formatN]; grind

@[simp] theorem fieldB_formatB (op : BitVec 8) (b : Byte) : fieldB (formatB op b) = b := by
  ext i hi; simp [fieldB, formatB, formatN]; grind

@[simp] theorem fieldK_formatK (op : BitVec 8) (k : Kind) : fieldK (formatK op k) = k := by
  have h : (formatK op k).extractLsb' 0 1 = k.bit := by
    ext i hi; simp [formatK, formatN]; grind
  rw [fieldK, h]; cases k <;> rfl

@[simp] theorem fieldF_formatC (op : BitVec 8) (f t : BitVec 3) (p : Bool) : fieldF (formatC op f t p) = f := by
  ext i hi; simp [fieldF, formatC, formatN]; grind

@[simp] theorem fieldT_formatC (op : BitVec 8) (f t : BitVec 3) (p : Bool) : fieldT (formatC op f t p) = t := by
  ext i hi; simp [fieldT, formatC, formatN]; grind

@[simp] theorem fieldP_formatC (op : BitVec 8) (f t : BitVec 3) (p : Bool) : fieldP (formatC op f t p) = p := by
  simp [fieldP, formatC, formatN]

/-! ### Reading a row -/

/-- A word is what a mask fixes of it and what the mask leaves free. -/
theorem word_split (w m p : Word) (h : w &&& m = p) : w = p ||| (w &&& ~~~m) := by
  subst h; ext i hi; simp; grind

theorem free_bits_N (w : Word) : w &&& ~~~(0xFFFFFFFF : Word) = 0 := by
  simp

theorem free_bits_S (w : Word) : w &&& ~~~(0xFFFFFFE0 : Word) = (fieldV w).setWidth 32 := by
  ext i hi; simp [fieldV]; interval_cases i <;> simp

theorem free_bits_B (w : Word) : w &&& ~~~(0xFFFFFF00 : Word) = (fieldB w).setWidth 32 := by
  ext i hi; simp [fieldB]; interval_cases i <;> simp

/-- Reading a 1-bit field as a kind and writing it again gives the field back. -/
theorem Kind.bit_ofBit (x : BitVec 1) : (Kind.ofBit x).bit = x := by
  revert x; decide

theorem free_bits_K (w : Word) : w &&& ~~~(0xFFFFFFFE : Word) = (fieldK w).bit.setWidth 32 := by
  rw [fieldK, Kind.bit_ofBit]
  ext i hi; simp; interval_cases i <;> simp

theorem free_bits_C (w : Word) : w &&& ~~~(0xFFFFFE88 : Word) =
    ((BitVec.ofBool (fieldP w)).setWidth 32 <<< 8) ||| ((fieldT w).setWidth 32 <<< 4) ||| (fieldF w).setWidth 32 := by
  ext i hi; simp [fieldP, fieldF, fieldT]; interval_cases i <;> simp

/-- Every mask covers the opcode (30_encoding.md R84). -/
theorem mask_covers_opcode : ∀ r ∈ opcodeTable, fieldOP r.mask = 0xFF := by
  simp [opcodeTable, fieldOP]

/-- A word that meets a row has the row's opcode. -/
theorem fieldOP_of_row (w : Word) (r : Row) (hr : r ∈ opcodeTable) (h : w &&& r.mask = r.pattern) :
    fieldOP w = fieldOP r.pattern := by
  have hm := mask_covers_opcode r hr
  rw [← h]
  have : fieldOP (w &&& r.mask) = fieldOP w &&& fieldOP r.mask := by
    ext i hi; simp [fieldOP]
  rw [this, hm]
  exact (BitVec.and_allOnes (x := fieldOP w)).symm

/-- No two rows meet one word (30_encoding.md R84). -/
theorem row_unique (w : Word) (r r' : Row) (hr : r ∈ opcodeTable) (hr' : r' ∈ opcodeTable)
    (h : w &&& r.mask = r.pattern) (h' : w &&& r'.mask = r'.pattern) : r = r' := by
  have e : fieldOP r.pattern = fieldOP r'.pattern :=
    (fieldOP_of_row w r hr h).symm.trans (fieldOP_of_row w r' hr' h')
  clear h h'
  simp only [opcodeTable, List.mem_cons, List.not_mem_nil, or_false] at hr hr'
  rcases hr with rfl | rfl | rfl | rfl | rfl | rfl | rfl | rfl | rfl | rfl | rfl | rfl | rfl <;>
  rcases hr' with rfl | rfl | rfl | rfl | rfl | rfl | rfl | rfl | rfl | rfl | rfl | rfl | rfl <;>
  first
  | rfl
  | exact absurd e (by decide)

/-- A word that meets a row decodes to the row's command. -/
theorem decode_of_row (w : Word) (r : Row) (hr : r ∈ opcodeTable) (h : w &&& r.mask = r.pattern) :
    decode w = .command (r.operands w) := by
  unfold decode
  split
  · rename_i r' hf
    have hr' := List.mem_of_find?_eq_some hf
    have h' : w &&& r'.mask = r'.pattern := by simpa [Row.holds] using List.find?_some hf
    rw [row_unique w r r' hr hr' h h']
  · rename_i hf
    exact absurd (List.find?_eq_none.1 hf r hr) (by simp [Row.holds, h])

/-- A word decodes to a command only through a row it meets. -/
theorem decode_command_iff (w : Word) (i : Instr) :
    decode w = .command i ↔ ∃ r ∈ opcodeTable, w &&& r.mask = r.pattern ∧ r.operands w = i := by
  constructor
  · intro h
    unfold decode at h
    split at h
    · rename_i r hf
      cases h
      exact ⟨r, List.mem_of_find?_eq_some hf, by simpa [Row.holds] using List.find?_some hf, rfl⟩
    · cases h
  · rintro ⟨r, hr, h, rfl⟩
    exact decode_of_row w r hr h

/-- A word is illegal exactly when it meets no row (30_encoding.md R85, R86). -/
theorem decode_illegal_iff (w : Word) :
    (∃ why, decode w = .illegal why) ↔ ∀ r ∈ opcodeTable, w &&& r.mask ≠ r.pattern := by
  constructor
  · rintro ⟨why, h⟩ r hr hm
    rw [decode_of_row w r hr hm] at h
    cases h
  · intro h
    cases hd : decode w with
    | illegal why => exact ⟨why, rfl⟩
    | command i =>
      obtain ⟨r, hr, hm, _⟩ := (decode_command_iff w i).1 hd
      exact absurd hm (h r hr)

end Sys2Proof
end

