-- ==== Sys2Proof/Laws/PerInstr.lean ====
section
/-! SUPPORT. The per-command family EncodedOpcode: bits 31..24 of every encoded command are its opcode
(30_encoding.md R81). -/

/-- Bits 31..24 of the command's word are its opcode. -/
def Sys2Proof.Laws.EncodedOpcode.Statement (i : Sys2Proof.Instr) : Prop :=
  Sys2Proof.fieldOP (Sys2Proof.encode i) = i.opcode

namespace Sys2Proof.Laws.EncodedOpcode

theorem nop : Statement .nop := fieldOP_formatN _
theorem rst : Statement .rst := fieldOP_formatN _
theorem csEnc (v : Sys2Proof.Symbol) : Statement (.csEnc v) := fieldOP_formatS _ v
theorem csDec (b : Sys2Proof.Byte) : Statement (.csDec b) := fieldOP_formatB _ b
theorem cvInit (f t : BitVec 3) (p : Bool) : Statement (.cvInit f t p) := fieldOP_formatC _ f t p
theorem cvPush (b : Sys2Proof.Byte) : Statement (.cvPush b) := fieldOP_formatB _ b
theorem cvFlush : Statement .cvFlush := fieldOP_formatN _
theorem ckInit : Statement .ckInit := fieldOP_formatN _
theorem ckSym (v : Sys2Proof.Symbol) : Statement (.ckSym v) := fieldOP_formatS _ v
theorem ckHrpHi (b : Sys2Proof.Byte) : Statement (.ckHrpHi b) := fieldOP_formatB _ b
theorem ckHrpLo (b : Sys2Proof.Byte) : Statement (.ckHrpLo b) := fieldOP_formatB _ b
theorem ckFinish (k : Sys2Proof.Kind) : Statement (.ckFinish k) := fieldOP_formatK _ k
theorem ckVerify : Statement .ckVerify := fieldOP_formatN _

end Sys2Proof.Laws.EncodedOpcode
end

