-- ==== Sys2Proof/Laws/Run.lean ====
section
/-! SUPPORT. Runs of steps and of commands. -/

namespace Sys2Proof.Machine

/-- A run of no step stays where it is. -/
theorem core_run_zero (s : State) : Sys2Proof.core.run 0 s = .next s := rfl

/-- On any machine, a run of `k + 1` steps is a step and a run of `k` steps. -/
theorem run_succ (M : Host.Core) (k : Nat) (s t : M.State) (h : M.step s = .next t) :
    M.run (k + 1) s = M.run k t := by
  simp [Host.Core.run, h]

/-- On this machine, a run of `k + 1` steps is a step and a run of `k` steps. -/
theorem core_run_succ (k : Nat) (s t : State) (h : step s = .next t) :
    Sys2Proof.core.run (k + 1) s = Sys2Proof.core.run k t :=
  run_succ Sys2Proof.core k s t h

/-- Every step answers a next state. -/
theorem step_answers_next (s : State) : ∃ t, step s = .next t := by
  cases h : s.pending with
  | nil => exact ⟨_, step_nil s h⟩
  | cons e rest =>
    obtain ⟨t, ht⟩ := performEvent_answers_next e (s.setPending rest)
    exact ⟨t, by rw [step_cons s e rest h, ht]⟩

/-- What a step can do, whatever is pending: run a command, reset the block, or change nothing but the model's own
fields. -/
theorem step_cases (s t : State) (h : step s = .next t) :
    (∃ e rest w u, s.pending = e :: rest ∧ e.commandWord = some w ∧ execute w (s.setPending rest) = .next u ∧
      t = u.setResponse (some .ack)) ∨
    (∃ a rest, s.pending = .reset a :: rest ∧ t = (s.setPending rest).resetRegisters.setResponse none) ∨
    (∃ rest r, t = (s.setPending rest).setResponse r) := by
  cases hp : s.pending with
  | nil =>
    rw [step_nil s hp] at h
    cases h
    exact .inr (.inr ⟨[], none, by rw [← hp]; rfl⟩)
  | cons e rest =>
    rw [step_cons s e rest hp] at h
    rcases performEvent_cases _ _ _ h with ⟨w, u, hw, hu, rfl⟩ | ⟨a, rfl, rfl⟩ | ⟨_, _, r, rfl⟩
    · exact .inl ⟨e, rest, w, u, rfl, hw, hu, rfl⟩
    · exact .inr (.inl ⟨a, rest, rfl, rfl⟩)
    · exact .inr (.inr ⟨rest, r, rfl⟩)

/-- Running commands one after another. -/
theorem runCommands_append (is js : List Instr) (s t : State) (h : runCommands is s = some t) :
    runCommands (is ++ js) s = runCommands js t := by
  induction is generalizing s with
  | nil => cases h; rfl
  | cons i is ih =>
    obtain ⟨u, hu⟩ := exec_answers_next i s
    simp only [List.cons_append, runCommands, hu] at h ⊢
    exact ih u h

/-- Every list of commands runs to its end. -/
theorem runCommands_answers (is : List Instr) (s : State) : ∃ t, runCommands is s = some t := by
  induction is generalizing s with
  | nil => exact ⟨s, rfl⟩
  | cons i is ih =>
    obtain ⟨u, hu⟩ := exec_answers_next i s
    obtain ⟨t, ht⟩ := ih u
    exact ⟨t, by simp [runCommands, hu, ht]⟩

/-- Every list of words runs to its end, with one state per word. -/
theorem statesAfter_answers (ws : List Word) (s : State) : ∃ ts, statesAfter ws s = some ts ∧ ts.length = ws.length := by
  induction ws generalizing s with
  | nil => exact ⟨[], rfl, rfl⟩
  | cons w ws ih =>
    obtain ⟨u, hu⟩ := execute_answers_next w s
    obtain ⟨ts, hts, hl⟩ := ih u
    exact ⟨u :: ts, by simp [statesAfter, hu, hts], by simp [hl]⟩

end Sys2Proof.Machine
end

