-- ==== Sys2Proof/Laws/Window.lean ====
section
/-! SUPPORT. The window words as numbers, field by field (10_state.md R33 to R36). -/

namespace Sys2Proof.Machine

theorem State.statusWord_toNat (s : State) : s.statusWord.toNat =
    s.err.toNat + 2 ^ 4 * s.matched.toNat + 2 ^ 16 * s.cverr.toNat + 2 ^ 18 * s.padx.toNat + 2 ^ 19 * s.padnz.toNat := by
  have h1 := s.err.isLt
  have h2 := s.matched.isLt
  have h3 := s.cverr.isLt
  have h4 := s.padx.toNat_le
  have h5 := s.padnz.toNat_le
  simp only [State.statusWord, BitVec.toNat_setWidth, BitVec.toNat_append, BitVec.toNat_ofBool]
  rw [← Nat.shiftLeft_add_eq_or_of_lt h1, ← Nat.shiftLeft_add_eq_or_of_lt h2,
    ← Nat.shiftLeft_add_eq_or_of_lt (by decide), ← Nat.shiftLeft_add_eq_or_of_lt h3,
    ← Nat.shiftLeft_add_eq_or_of_lt (by omega)]
  simp [Nat.shiftLeft_eq]
  omega

theorem State.chkWord_toNat (s : State) : s.chkWord.toNat = s.chk.toNat := by
  have h := s.chk.isLt
  simp only [State.chkWord, BitVec.toNat_setWidth]
  omega

theorem State.cvstateWord_toNat (s : State) : s.cvstateWord.toNat = s.acc.toNat + 2 ^ 8 * s.nbits.toNat := by
  have h1 := s.acc.isLt
  have h2 := s.nbits.isLt
  simp only [State.cvstateWord, BitVec.toNat_setWidth, BitVec.toNat_append]
  rw [← Nat.shiftLeft_add_eq_or_of_lt h1]
  simp [Nat.shiftLeft_eq]
  omega

theorem State.cvcfgWord_toNat (s : State) :
    s.cvcfgWord.toNat = s.cfgF.toNat + 2 ^ 4 * s.cfgT.toNat + 2 ^ 8 * s.cfgP.toNat := by
  have h1 := s.cfgF.isLt
  have h2 := s.cfgT.isLt
  have h3 := s.cfgP.toNat_le
  simp only [State.cvcfgWord, BitVec.toNat_setWidth, BitVec.toNat_append, BitVec.toNat_ofBool]
  rw [← Nat.shiftLeft_add_eq_or_of_lt h1, ← Nat.shiftLeft_add_eq_or_of_lt (by decide),
    ← Nat.shiftLeft_add_eq_or_of_lt h2, ← Nat.shiftLeft_add_eq_or_of_lt (by decide)]
  simp [Nat.shiftLeft_eq]
  omega

end Sys2Proof.Machine
end

