-- ==== Sys2Proof/Tests/Slice0.lean ====
section
/-! SUPPORT. Tests of one step, decode or line each, with expected values from the spec's tables (spec/95_test_vectors.md, or
the rule named), and a concrete witness for the hypotheses of every statement that has any. -/

namespace Sys2Proof.Tests

open Sys2Proof Sys2Proof.Machine

/-! ### Well-formedness: an ill-formed term for each check (30_encoding.md R89, 00_scope.md R6) -/

theorem test_wf_refuses_csEnc : (AsmLine.csEnc 32).wellFormed = false := by decide
theorem test_wf_refuses_csDec : (AsmLine.csDec 256).wellFormed = false := by decide
theorem test_wf_refuses_cvInit_from_zero : (AsmLine.cvInit 0 5 true).wellFormed = false := by decide
theorem test_wf_refuses_cvInit_from_nine : (AsmLine.cvInit 9 5 true).wellFormed = false := by decide
theorem test_wf_refuses_cvInit_to_zero : (AsmLine.cvInit 8 0 true).wellFormed = false := by decide
theorem test_wf_refuses_cvInit_to_nine : (AsmLine.cvInit 8 9 true).wellFormed = false := by decide
theorem test_wf_refuses_cvPush : (AsmLine.cvPush 256).wellFormed = false := by decide
theorem test_wf_refuses_ckSym : (AsmLine.ckSym 32).wellFormed = false := by decide
theorem test_wf_refuses_ckHrpHi : (AsmLine.ckHrpHi 256).wellFormed = false := by decide
theorem test_wf_refuses_ckHrpLo : (AsmLine.ckHrpLo 256).wellFormed = false := by decide
theorem test_wf_refuses_ckFinish : (AsmLine.ckFinish 2).wellFormed = false := by decide
theorem test_wf_refuses_word : (AsmLine.word 4294967296).wellFormed = false := by decide
theorem test_wf_refuses_ckHrp : (AsmLine.ckHrp [0x61, 256]).wellFormed = false := by decide
theorem test_wf_refuses_read_beyond : (AsmLine.read 0x20).wellFormed = false := by decide
theorem test_wf_refuses_read_unaligned : (AsmLine.read 0x06).wellFormed = false := by decide

theorem test_wf_accepts_boundaries :
    [AsmLine.csEnc 31, .csDec 255, .cvInit 1 8 false, .cvInit 8 1 true, .cvPush 255, .ckSym 31, .ckFinish 1,
      .word 4294967295, .ckHrp [255], .read 0x1C].all AsmLine.wellFormed = true := by decide

/-- A repeated character. -/
theorem test_wf_refuses_duplicate_charset : ¬ CharsetWellFormed (Config.defaultCharset.set 1 0x71) := by decide

/-- `b` is no legal character. -/
theorem test_wf_refuses_foreign_charset : ¬ CharsetWellFormed (Config.defaultCharset.set 1 0x62) := by decide

theorem test_wf_accepts_default_charset : CharsetWellFormed Config.defaultCharset := by decide

/-! ### Decoding: one word per command, written out from the formats of 30_encoding.md R82 and the opcodes of R84 -/

theorem test_decode_nop : decode 0b00000000000000000000000000000000 = .command .nop := by decide
theorem test_decode_rst : decode 0b00000001000000000000000000000000 = .command .rst := by decide
theorem test_decode_csEnc : decode 0b00010000000000000000000000010010 = .command (.csEnc 18) := by decide
theorem test_decode_csDec : decode 0b00010001000000000000000011000001 = .command (.csDec 0xC1) := by decide
theorem test_decode_cvInit : decode 0b00100000000000000000000100110110 = .command (.cvInit 6 3 true) := by decide
theorem test_decode_cvPush : decode 0b00100001000000000000000010000110 = .command (.cvPush 0x86) := by decide
theorem test_decode_cvFlush : decode 0b00100010000000000000000000000000 = .command .cvFlush := by decide
theorem test_decode_ckInit : decode 0b00110000000000000000000000000000 = .command .ckInit := by decide
theorem test_decode_ckSym : decode 0b00110001000000000000000000010001 = .command (.ckSym 17) := by decide
theorem test_decode_ckHrpHi : decode 0b00110010000000000000000001100010 = .command (.ckHrpHi 0x62) := by decide
theorem test_decode_ckHrpLo : decode 0b00110011000000000000000001110100 = .command (.ckHrpLo 0x74) := by decide
theorem test_decode_ckFinish_bech32 : decode 0b00110100000000000000000000000000 = .command (.ckFinish .bech32) := by decide
theorem test_decode_ckFinish_bech32m : decode 0b00110100000000000000000000000001 = .command (.ckFinish .bech32m) := by decide
theorem test_decode_ckVerify : decode 0b00110101000000000000000000000000 = .command .ckVerify := by decide

/-- 95_test_vectors.md 2.6, words with a reserved bit set. -/
theorem test_decode_reserved :
    ([0x00000001, 0x01000001, 0x10000020, 0x11000100, 0x20000008, 0x20000080, 0x20000200, 0x21000100, 0x22000001,
      0x30800000, 0x31000020, 0x34000002, 0x35000001] : List Word).all (decode · == .illegal .reservedBitSet) = true := by
  decide

/-- 95_test_vectors.md 2.6, words with an unassigned opcode. -/
theorem test_decode_unassigned :
    ([0x02000000, 0x0F000000, 0x12000000, 0x23000000, 0x36000000, 0xFF000000, 0xFFFFFFFF] : List Word).all
      (decode · == .illegal .unassignedOpcode) = true := by
  decide

theorem test_encode_cvInit : encode (.cvInit 4 7 false) = 0x20000074 := by decide

/-! ### One command -/

/-- `RST` clears what a stream left, and keeps the alphabet (44_control.md R181). -/
theorem test_rst : exec .rst { State.reset with chk := 5, acc := 3, nbits := 5, cverr := 1, err := 5, cfgT := 7, matched := 2 } =
    .next State.reset := by rfl

/-- `NOP` after an error (44_control.md R180, program P5 step 10). -/
theorem test_nop : exec .nop { State.reset with err := 5, cverr := 1 } = .next { State.reset with cverr := 1 } := by rfl

/-- 95_test_vectors.md 2.2, `1000001D`. -/
theorem test_csEnc : exec (.csEnc 29) State.reset = .next { State.reset with result := 0x61 } := by rfl

/-- 95_test_vectors.md 2.2, `1100005A`: uppercase `Z`, the edge of the fold range. -/
theorem test_csDec_member : exec (.csDec 0x5A) State.reset = .next { State.reset with result := 0x102 } := by rfl

/-- 95_test_vectors.md 2.2, `1100005B`: just above `Z`, not folded. -/
theorem test_csDec_non_member : exec (.csDec 0x5B) { State.reset with result := 7 } = .next { State.reset with err := 4 } := by
  rfl

/-- Program P5 step 8: `CV.INIT` recovers from a latched error. -/
theorem test_cvInit : exec (.cvInit 4 7 false) { State.reset with acc := 3, nbits := 5, cverr := 2, padx := true, err := 5 } =
    .next { State.reset with cfgF := 4, cfgT := 7, cfgP := false } := by rfl

/-- 95_test_vectors.md V10: eight 1-bit groups, the largest count. -/
theorem test_cvPush_eight_groups : exec (.cvPush 0xA5) { State.reset with cfgF := 7, cfgT := 0, cfgP := false } =
    .next { State.reset with cfgF := 7, cfgT := 0, cfgP := false, result := 0x000800A5 } := by rfl

/-- Program P2 step 3: two groups, `20` and `15`, and one bit left. -/
theorem test_cvPush_two_groups : exec (.cvPush 0x1E) { State.reset with acc := 5, nbits := 3 } =
    .next { State.reset with result := 0x0002028F, nbits := 1 } := by rfl

/-- 95_test_vectors.md V1: the pad group `7 << 2`. -/
theorem test_cvFlush_padded : exec .cvFlush { State.reset with acc := 7, nbits := 3 } =
    .next { State.reset with result := 0x0001001C } := by rfl

/-- 95_test_vectors.md V6: a non-zero leftover, kept. -/
theorem test_cvFlush_strict :
    exec .cvFlush { State.reset with cfgF := 4, cfgT := 7, cfgP := false, acc := 1, nbits := 2 } =
      .next { State.reset with cfgF := 4, cfgT := 7, cfgP := false, acc := 1, nbits := 2, cverr := 2, padnz := true, err := 3 } := by
  rfl

/-- 43_checksum.md R151. -/
theorem test_ckInit : exec .ckInit { State.reset with chk := 0x02000000, matched := 2 } = .next State.reset := by rfl

/-- 95_test_vectors.md 2.1: all ones in. -/
theorem test_ckSym : exec (.ckSym 31) { State.reset with chk := 0x3FFFFFFF } =
    .next { State.reset with chk := 0x2B326EB4 } := by rfl

/-- Program P1 step 3. -/
theorem test_ckHrpHi : exec (.ckHrpHi 0x61) State.reset = .next { State.reset with chk := 0x23 } := by rfl

/-- Program P1 step 5. -/
theorem test_ckHrpLo : exec (.ckHrpLo 0x61) { State.reset with chk := 0x460 } = .next { State.reset with chk := 0x8C01 } := by
  rfl

/-- Program P1 step 6. -/
theorem test_ckFinish_bech32 : exec (.ckFinish .bech32) { State.reset with chk := 0x8C01 } =
    .next { State.reset with chk := 0x15CCFE9E, result := 0x15CCFE9F } := by rfl

/-- 95_test_vectors.md 1.2, `a1lqfn3a`. -/
theorem test_ckFinish_bech32m : exec (.ckFinish .bech32m) { State.reset with chk := 0x8C01 } =
    .next { State.reset with chk := 0x15CCFE9E, result := 0x3E04CE3D } := by rfl

/-- Program P3 step 29. -/
theorem test_ckVerify : exec .ckVerify { State.reset with chk := 0x2BC830A3 } =
    .next { State.reset with chk := 0x2BC830A3, matched := 2, result := 2 } := by rfl

/-! ### One access (95_test_vectors.md 2.7) -/

/-- A state whose next access is `a`. -/
def facing (a : Access) : State := { State.reset with pending := [.access a] }

/-- A state whose host is about to write `w` to CMD. -/
def commanding (w : Word) : State := { State.reset with pending := [commandEvent w] }

theorem test_bus_partial_write : step (facing { we := true, addr := 0, be := 0b0001, wdata := 0x30000000 }) =
    .next { State.reset with response := some .busError } := by rfl

theorem test_bus_unaligned_read : step (facing { we := false, addr := 2, be := 0b1111, wdata := 0 }) =
    .next { State.reset with response := some .busError } := by rfl

theorem test_bus_read_cvcfg : step (facing { we := false, addr := 0x14, be := 0b1111, wdata := 0 }) =
    .next { State.reset with response := some (.data 0x147) } := by rfl

theorem test_bus_write_ignored : step (facing { we := true, addr := 0x0C, be := 0b1111, wdata := 0 }) =
    .next { State.reset with response := some .ack } := by rfl

/-- STATUS of program P3 step 36. -/
theorem test_statusWord :
    State.statusWord { State.reset with padnz := true, cverr := 2, matched := 2, err := 3 } = 0x000A0023 := by decide

/-- 95_test_vectors.md 2.2, `1000001D`, as the first command after reset. -/
theorem test_step_first_command : step (State.reset.withFetchWord 32 0x1000001D) =
    .next { State.reset with result := 0x61, response := some .ack } := by rfl

theorem test_step_first_illegal : step (State.reset.withFetchWord 32 0x36000000) =
    .next { State.reset with err := 1, response := some .ack } := by rfl

theorem test_decodeTableWord : decodeTableWord 32 0x31000011 = some (.ckSym 17) := by decide

/-- A reset abandons the access in progress: no answer (70_reset_and_hazards.md R231). -/
theorem test_reset_event :
    let a : Access := { we := true, addr := 0, be := 0b1111, wdata := 0x31000001 }
    step { State.reset with chk := 9, err := 4, pending := [.reset (some a)] } = .next State.reset := by rfl

/-! ### The source's functions (95_test_vectors.md 1.1, 1.2) -/

theorem test_source_convert_exact : Source.convert [0x75, 0x1e, 0xff] 8 5 true = .groups [14, 20, 15, 15, 30] := by decide
theorem test_source_convert_rejects : Source.convert [1] 5 8 false = .invalidPadding := by decide
theorem test_source_createChecksum : Source.createChecksum [0x61] [] .bech32 = [10, 28, 25, 31, 20, 31] := by decide
theorem test_source_verifyChecksum :
    Source.verifyChecksum [0x61] [31, 0, 9, 19, 17, 29] = some .bech32m := by decide

/-! ### The assembler (30_encoding.md R89 to R91) -/

theorem test_asm_cvInit : assembleText "cv.init 5, 8, nopad ; strict".toList = some [commandEvent 0x20000074] := by decide
theorem test_asm_quoted_semicolon : assembleText "CK.HRPHI ';'".toList = some [commandEvent 0x3200003B] := by decide
theorem test_asm_hrp : assembleText "CK.HRP \"bt\"".toList =
    some ([0x32000062, 0x32000074, 0x31000000, 0x33000062, 0x33000074].map commandEvent) := by decide
theorem test_asm_out_of_range : assembleText "CK.SYM 0x20".toList = none := by decide
theorem test_asm_word : assembleText ".word 0x12000000".toList = some [commandEvent 0x12000000] := by decide
/-- The model's choice (assumption log 18): a character outside ASCII is its code point if that is below 256. -/
theorem test_asm_non_ascii :
    assembleText ['C', 'K', '.', 'H', 'R', 'P', 'H', 'I', ' ', '\'', Char.ofNat 0xE9, '\''] = some [commandEvent 0x320000E9] ∧
    assembleText ['C', 'K', '.', 'H', 'R', 'P', 'H', 'I', ' ', '\'', Char.ofNat 0x100, '\''] = none := by decide
theorem test_asm_read : assembleText "read CHK".toList = some [readEvent 0x0C] := by decide

/-! ### Witnesses: the hypotheses of the statements are met -/

theorem test_witness_DecodeEncodeRoundTrip : decode 0x20000147 = .command (.cvInit 7 4 true) := by decide

/-- A word that meets a row with every operand bit set, and one that meets none. -/
theorem test_witness_DecodeFollowsMaskAndMatch :
    (0x20000177 : Word) &&& 0xFFFFFE88 = 0x20000000 ∧ decode 0x20000177 = .command (.cvInit 7 7 true) ∧
    (opcodeTable.all fun r => (0x200001FF : Word) &&& r.mask != r.pattern) = true := by decide

/-- The ends of the unassigned ranges, and a reserved bit of each format. -/
theorem test_witness_IllegalWordClasses :
    ([0x02000000, 0x0FFFFFFF, 0x12000000, 0x1FFFFFFF, 0x23000000, 0x2FFFFFFF, 0x36000000, 0xFFFFFFFF] : List Word).all
      (decode · == .illegal .unassignedOpcode) = true ∧
    ([0x00800000, 0x10000020, 0x33000100, 0x34000002, 0x20000008, 0x20000080, 0x20000200, 0x35000001] : List Word).all
      (decode · == .illegal .reservedBitSet) = true := by decide

theorem test_witness_StepRunsTheDecodedCommand :
    (commanding 0x31000001).pending = .access { we := true, addr := 0, be := 0b1111, wdata := 0x31000001 } :: [] ∧
    decode 0x31000001 = .command (.ckSym 1) ∧
    exec (.ckSym 1) { commanding 0x31000001 with pending := [] } = .next { State.reset with chk := 0x21 } := by
  refine ⟨rfl, by decide, by rfl⟩

theorem test_witness_IllegalCommandSetsErrOnly :
    (commanding 0x36000000).pending = .access { we := true, addr := 0, be := 0b1111, wdata := 0x36000000 } :: [] ∧
    decode 0x36000000 = .illegal .unassignedOpcode := by
  refine ⟨rfl, by decide⟩

/-- An access with one byte enable clear, and one at each unaligned offset next to CMD. -/
theorem test_witness_UnadmittedAccessIsABusError :
    (0b0111 : BitVec 4) ≠ 0b1111 ∧ (1 : BitVec 5).toNat % 4 ≠ 0 ∧ (3 : BitVec 5).toNat % 4 ≠ 0 ∧
    (facing { we := true, addr := 1, be := 0b1111, wdata := 0 }).pending =
      [.access { we := true, addr := 1, be := 0b1111, wdata := 0 }] := by
  refine ⟨by decide, by decide, by decide, rfl⟩

/-- A read of each offset is admitted. -/
theorem test_witness_ReadAnswersTheRegister :
    ([0x00, 0x04, 0x08, 0x0C, 0x10, 0x14, 0x18, 0x1C] : List (BitVec 5)).all (fun off =>
      (facing { we := false, addr := off, be := 0b1111, wdata := 0 }).pending ==
        [.access { we := false, addr := off, be := 0b1111, wdata := 0 }] && off.toNat % 4 == 0) = true := by decide

theorem test_witness_OtherWritesAreIgnored :
    (facing { we := true, addr := 0x1C, be := 0b1111, wdata := 0x12345678 }).pending =
      [.access { we := true, addr := 0x1C, be := 0b1111, wdata := 0x12345678 }] ∧
    (0x1C : BitVec 5).toNat % 4 = 0 ∧ (0x1C : BitVec 5) ≠ 0 ∧
    (readEvent 0x1C).commandWord = none ∧ (∀ a, readEvent 0x1C ≠ .reset a) ∧
    step { State.reset with pending := [readEvent 0x1C] } = .next { State.reset with response := some (.data 0) } := by
  refine ⟨rfl, by decide, by decide, by decide, fun a h => (by cases h), by rfl⟩

theorem test_witness_IdleBlockHoldsItsState :
    ({ State.reset with pending := [.idle] } : State).pending = .idle :: [] ∧ State.reset.pending = [] := by
  exact ⟨rfl, rfl⟩

/-- Two different states with the same window. -/
theorem test_witness_WindowShowsEveryRegister :
    let t : State := { State.reset with pending := [.idle] }
    State.reset ≠ t ∧ ([0x04, 0x08, 0x0C, 0x10, 0x14] : List (BitVec 5)).all
      (fun off => readReg off State.reset == readReg off t) = true := by decide

theorem test_witness_WindowStandsAtBase : Config.base + 31 < Config.base + 32 := by omega

theorem test_witness_ResetSourcesAgree :
    ({ State.reset with pending := [.reset none] } : State).pending = .reset none :: [] ∧
    (commanding 0x01000000).pending = .access { we := true, addr := 0, be := 0b1111, wdata := 0x01000000 } :: [] := by
  exact ⟨rfl, rfl⟩

/-- A state of the invariant with every leftover bit set, and a step from it. -/
theorem test_witness_StepKeepsTheInvariant :
    let s : State := { State.reset with cfgT := 7, acc := 0x7F, nbits := 7, pending := [commandEvent 0x210000FF] }
    StateInvariant s ∧ step s =
      .next { State.reset with cfgT := 7, acc := 0x7F, nbits := 7, result := 0x000100FF, response := some .ack } := by
  refine ⟨by decide, by rfl⟩

theorem test_witness_ReachableStatesMeetTheInvariant :
    Sys2Proof.core.run 1 { State.reset with pending := [commandEvent 0x11000062] } =
      .next { State.reset with err := 4, response := some .ack } := by rfl

theorem test_witness_AlphabetIsReadOnly :
    step (commanding 0x01000000) = .next { State.reset with response := some .ack } ∧
    (Instr.ckSym 1).isCharset = false ∧ exec (.ckSym 1) State.reset = .next { State.reset with chk := 0x21 } := by
  refine ⟨by rfl, by decide, by rfl⟩

/-- A command that changes each register it is named for: CHK, ACC and NBITS, CFG, CVERR, PADX and PADNZ, MATCH, RESULT. -/
theorem test_witness_RegistersChangeOnlyByTheirWriters :
    exec (.ckSym 1) State.reset = .next { State.reset with chk := 0x21 } ∧
    exec (.cvPush 0xFF) State.reset = .next { State.reset with acc := 7, nbits := 3, result := 0x0001001F } ∧
    exec (.cvInit 4 7 false) State.reset = .next { State.reset with cfgF := 4, cfgT := 7, cfgP := false } ∧
    (let s : State := { State.reset with cfgF := 4, cfgT := 7, cfgP := false, acc := 0x1F, nbits := 5 }
     exec .cvFlush s = .next { s with cverr := 2, padx := true, padnz := true, err := 3 }) ∧
    exec .ckVerify State.reset = .next { State.reset with matched := 1, result := 1 } := by
  refine ⟨rfl, rfl, rfl, rfl, rfl⟩

/-- A latched error and a CV.PUSH. -/
theorem test_witness_ConverterErrorIsSticky :
    let s : State := { State.reset with cverr := 1, pending := [commandEvent 0x21000001] }
    s.cverr ≠ 0 ∧ (commandEvent 0x21000001).resets = false ∧ (commandEvent 0x21000001).startsConverter = false ∧
    step s = .next { State.reset with cverr := 1, err := 5, response := some .ack } := by
  refine ⟨by decide, by decide, by decide, by rfl⟩

/-- An event of each kind: a read, and a write to CMD. -/
theorem test_witness_ErrIsTheLastCommandsCode :
    (readEvent 0x08).commandWord = none ∧ (readEvent 0x08).resets = false ∧
    step { State.reset with err := 4, pending := [readEvent 0x08] } =
      .next { State.reset with err := 4, response := some (.data 4) } ∧
    (commandEvent 0x22000001).commandWord = some 0x22000001 := by
  refine ⟨by decide, by decide, by rfl, by decide⟩

/-- A command for each code it can report: 0, 2, 3, 4 and 5. -/
theorem test_witness_ErrorsArePreciseAndPerCommand :
    exec .nop State.reset = .next State.reset ∧
    exec (.cvPush 0x20) { State.reset with cfgF := 4, result := 9 } = .next { State.reset with cfgF := 4, cverr := 1, err := 2 } ∧
    exec .cvFlush { State.reset with cfgF := 4, cfgP := false, nbits := 5, result := 9 } =
      .next { State.reset with cfgF := 4, cfgP := false, nbits := 5, cverr := 2, padx := true, err := 3 } ∧
    exec (.csDec 0x31) { State.reset with result := 9 } = .next { State.reset with err := 4 } ∧
    exec .cvFlush { State.reset with cverr := 2, padnz := true, result := 9 } =
      .next { State.reset with cverr := 2, padnz := true, err := 5 } := by
  refine ⟨rfl, rfl, rfl, rfl, rfl⟩

/-- Two states that agree on the checksum registers and differ in the converter's, and one command from both. -/
theorem test_witness_FamiliesDoNotInterfere :
    let s : State := { State.reset with nbits := 3, acc := 5 }
    SameChecksum State.reset s ∧ ¬ SameConverter State.reset s ∧ SameConverter State.reset { State.reset with chk := 7 } ∧
    exec .ckVerify State.reset = .next { State.reset with matched := 1, result := 1 } ∧
    exec .ckVerify s = .next { State.reset with nbits := 3, acc := 5, matched := 1, result := 1 } := by
  refine ⟨by decide, by decide, by decide, by rfl, by rfl⟩

theorem test_witness_NopClearsErr : (0x00000001 : Word).toNat / 2 ^ 24 = 0 ∧ (0x00FFFFFF : Word).toNat / 2 ^ 24 = 0 := by decide

/-- A well-formed alphabet, and words of the opcode with the lowest and the highest reserved bit set. -/
theorem test_witness_CsEncGivesTheCharacter :
    CharsetWellFormed State.reset.charset ∧
    (0x10000020 : Word).toNat / 2 ^ 24 = 0x10 ∧ (0x10000020 : Word).extractLsb' 5 19 ≠ 0 ∧
    (0x1080001F : Word).toNat / 2 ^ 24 = 0x10 ∧ (0x1080001F : Word).extractLsb' 5 19 ≠ 0 := by decide

/-- `q` is the entry 0, `L` folds to the entry 31, and `b` is no entry. -/
theorem test_witness_CsDecFindsTheIndex :
    let fold : Byte → Nat := fun b => if 0x41 ≤ b.toNat ∧ b.toNat ≤ 0x5A then b.toNat + 0x20 else b.toNat
    (charAt Config.defaultCharset 0).toNat = fold 0x71 ∧ (charAt Config.defaultCharset 31).toNat = fold 0x4C ∧
    (∀ v : Symbol, (Config.defaultCharset[v.toNat]'v.isLt).toNat ≠ fold 0x62) := by decide

/-- The default alphabet, and the same with two characters exchanged. -/
theorem test_witness_FiftyFiveMembers :
    CharsetWellFormed Config.defaultCharset ∧
    CharsetWellFormed ((Config.defaultCharset.set 0 0x6c).set 31 0x71) := by decide

theorem test_witness_CharsetRoundTrip : isMember State.reset.charset 0x51 = true := by decide

theorem test_witness_CharsetCommandsCommute :
    (Instr.csDec 0x62).isCharset = true ∧ Instr.cvFlush.isConverter = true ∧ Instr.ckVerify.isChecksum = true := by decide

/-- The largest accepted value on the fullest buffer. -/
theorem test_witness_CvPushEmitsTheSourcesGroups :
    let s : State := { State.reset with cfgT := 7, acc := 0x7F, nbits := 7 }
    StateInvariant s ∧ s.cverr = 0 ∧ (0xFF : Byte).toNat ≤ 2 ^ (s.cfgF.toNat + 1) - 1 := by decide

/-- The least rejected value, and it is above the largest accepted one. -/
theorem test_witness_CvPushRejectsAnOutOfRangeValue :
    let s : State := { State.reset with cfgF := 4 }
    s.cverr = 0 ∧ 2 ^ (s.cfgF.toNat + 1) - 1 < (0x20 : Byte).toNat ∧ ¬ 2 ^ (s.cfgF.toNat + 1) - 1 < (0x1F : Byte).toNat := by
  decide

theorem test_witness_LatchedErrorAborts :
    ({ State.reset with cverr := 1 } : State).cverr ≠ 0 ∧
    exec (.ckSym 1) { State.reset with cverr := 1 } = .next { State.reset with cverr := 1, chk := 0x21 } := by
  refine ⟨by decide, by rfl⟩

/-- NBITS at 0, at 1, at toBits and just above toBits. -/
theorem test_witness_CvFlushPadsTheLeftoverBits :
    State.reset.cverr = 0 ∧ State.reset.cfgP = true ∧ State.reset.nbits = 0 ∧
    (let s : State := { State.reset with nbits := 1 }; s.cverr = 0 ∧ s.cfgP = true ∧ 0 < s.nbits.toNat ∧ s.nbits.toNat ≤ s.cfgT.toNat + 1) ∧
    (let s : State := { State.reset with nbits := 5 }; s.cverr = 0 ∧ s.cfgP = true ∧ 0 < s.nbits.toNat ∧ s.nbits.toNat ≤ s.cfgT.toNat + 1) ∧
    (let s : State := { State.reset with nbits := 6 }; s.cverr = 0 ∧ s.cfgP = true ∧ 0 < s.nbits.toNat ∧ ¬ s.nbits.toNat ≤ s.cfgT.toNat + 1) := by
  decide

/-- The largest leftover dropped, the least too many, and a non-zero one (95_test_vectors.md V4 to V6). -/
theorem test_witness_CvFlushChecksThePadding :
    (let s : State := { State.reset with cfgF := 4, cfgP := false, nbits := 4 }
     s.cverr = 0 ∧ s.cfgP = false ∧ s.nbits.toNat < s.cfgF.toNat + 1 ∧ s.acc = 0) ∧
    (let s : State := { State.reset with cfgF := 4, cfgP := false, nbits := 5 }
     s.cverr = 0 ∧ s.cfgP = false ∧ s.cfgF.toNat + 1 ≤ s.nbits.toNat ∧ s.acc = 0) ∧
    (let s : State := { State.reset with cfgF := 4, cfgP := false, nbits := 2, acc := 1 }
     s.cverr = 0 ∧ s.cfgP = false ∧ ¬ s.cfgF.toNat + 1 ≤ s.nbits.toNat ∧ s.acc ≠ 0) := by
  decide

/-- ACC is the low NBITS bits of an accumulator that holds more. -/
theorem test_witness_AccumulatorSimulatesTheSource :
    let s : State := { State.reset with acc := 5, nbits := 3 }
    s.nbits.toNat ≤ s.cfgT.toNat ∧ s.acc.toNat = 0x75 % 2 ^ s.nbits.toNat ∧ s.cverr = 0 ∧
    (0xFF : Byte).toNat ≤ 2 ^ (s.cfgF.toNat + 1) - 1 := by decide

/-- A stream with another command and an illegal word between its own. -/
theorem test_witness_ConverterStreamIsConvert :
    let ws : List Word := [0x20000147, 0x31000005, 0x21000075, 0x36000000, 0x22000000]
    ws.filterMap (familyWord Instr.isConverter) = .cvInit 7 4 true :: ([0x75].map .cvPush ++ [.cvFlush]) ∧
    ∀ w ∈ ws, decode w ≠ .command .rst := by
  refine ⟨by rfl, ?_⟩
  simp only [List.forall_mem_cons, List.not_mem_nil, IsEmpty.forall_iff, implies_true, and_true]
  decide

/-- Each of the three outcomes is the source's on some input (the second and third are 95_test_vectors.md V8 and E5). -/
theorem test_witness_ConverterStreamIsConvert_outcomes :
    Source.convert [0x75] 8 5 true = .groups [14, 20] ∧ Source.convert [32, 1] 5 8 false = .inputRange 0 ∧
    Source.convert [1] 5 8 false = .invalidPadding := by decide

theorem test_witness_PolymodStepIsTheSources : 2 ^ 30 - 1 < 2 ^ 30 ∧ Source.polymodStep (2 ^ 30 - 1) 31 = 0x2B326EB4 := by decide

theorem test_witness_CkFinishGivesTheChecksum :
    exec (.ckFinish .bech32) State.reset = .next { State.reset with chk := 0x3B6A57B2, result := 0x3B6A57B3 } ∧
    exec (.ckFinish .bech32m) State.reset =
      .next { State.reset with chk := 0x3B6A57B2, result := BitVec.ofNat 32 (0x3B6A57B2 ^^^ 0x2BC830A3) } := by
  refine ⟨rfl, rfl⟩

/-- Words of the opcode with the lowest and the highest reserved bit set. -/
theorem test_witness_CkSymFeedsItsSymbol :
    (0x31000020 : Word).toNat / 2 ^ 24 = 0x31 ∧ (0x31000020 : Word).extractLsb' 5 19 ≠ 0 ∧
    (0x3180001F : Word).toNat / 2 ^ 24 = 0x31 ∧ (0x3180001F : Word).extractLsb' 5 19 ≠ 0 := by decide

/-- A residue of each verdict. -/
theorem test_witness_CkVerifyClassifiesTheResidue :
    (0x1 : Residue).toNat = 1 ∧ (0x2BC830A3 : Residue).toNat = 0x2bc830a3 ∧
    (0x5 : Residue).toNat ≠ 1 ∧ (0x5 : Residue).toNat ≠ 0x2bc830a3 := by decide

/-- A stream of symbols, with another command and an illegal word between them. -/
theorem test_witness_ChecksumStreamIsTheSources :
    let ws : List Word := [0x30000000, 0x21000001, 0x3100000A, 0x12000000]
    ws.filterMap (familyWord Instr.isChecksum) = .ckInit :: ([10] : List Symbol).map .ckSym ∧
    ∀ w ∈ ws, decode w ≠ .command .rst := by
  refine ⟨by rfl, ?_⟩
  simp only [List.forall_mem_cons, List.not_mem_nil, IsEmpty.forall_iff, implies_true, and_true]
  decide

/-- A stream that creates a checksum, with another command in it. -/
theorem test_witness_ChecksumStreamIsTheSources_create :
    let ws : List Word := [0x30000000, 0x32000061, 0x1000001D, 0x31000000, 0x33000061, 0x34000000]
    ws.filterMap (familyWord Instr.isChecksum) =
      .ckInit :: (expandHrpMacro [0x61] ++ ([] : List Symbol).map .ckSym ++ [.ckFinish .bech32]) ∧
    ∀ w ∈ ws, decode w ≠ .command .rst := by
  refine ⟨by rfl, ?_⟩
  simp only [List.forall_mem_cons, List.not_mem_nil, IsEmpty.forall_iff, implies_true, and_true]
  decide

/-- A stream that verifies one, with another command in it. -/
theorem test_witness_ChecksumStreamIsTheSources_verify :
    let ws : List Word := [0x30000000, 0x32000061, 0x31000000, 0x33000061, 0x22000000, 0x31000005, 0x35000000]
    ws.filterMap (familyWord Instr.isChecksum) =
      .ckInit :: (expandHrpMacro [0x61] ++ ([5] : List Symbol).map .ckSym ++ [.ckVerify]) ∧
    ∀ w ∈ ws, decode w ≠ .command .rst := by
  refine ⟨by rfl, ?_⟩
  simp only [List.forall_mem_cons, List.not_mem_nil, IsEmpty.forall_iff, implies_true, and_true]
  decide

theorem test_witness_AssemblerYieldsOnlyCommands :
    (AsmLine.csEnc 32).wellFormed = false ∧ lineWords .ckHrpSep = some [0x31000000] ∧
    (∀ w, AsmLine.ckHrpSep ≠ .word w) ∧ ∀ n, AsmLine.ckHrpSep ≠ .read n := by
  refine ⟨by decide, by decide, fun w h => (by cases h), fun n h => by cases h⟩

/-- Each range at its last value inside and its first outside (30_encoding.md R89). -/
theorem test_witness_AssemblerYieldsOnlyCommands_ranges :
    lineWords (.csEnc 31) = some [0x1000001F] ∧ lineWords (.csEnc 32) = none ∧
    lineWords (.cvPush 255) = some [0x210000FF] ∧ lineWords (.cvPush 256) = none ∧
    lineWords (.ckFinish 1) = some [0x34000001] ∧ lineWords (.ckFinish 2) = none ∧
    lineWords (.cvInit 8 1 true) = some [0x20000107] ∧ lineWords (.cvInit 9 1 true) = none ∧
    lineWords (.cvInit 1 8 false) = some [0x20000070] ∧ lineWords (.cvInit 1 0 false) = none ∧
    lineWords (.word 0xFFFFFFFF) = some [0xFFFFFFFF] ∧ lineWords (.word 0x100000000) = none ∧
    lineWords (.ckHrp [0x61, 256]) = none ∧ lineEvents (.read 0x1C) = some [readEvent 0x1C] := by decide

theorem test_witness_HrpMacroExpansion :
    lineWords (.ckHrp (([0x62] : List Byte).map BitVec.toNat)) = some [0x32000062, 0x31000000, 0x33000062] := by decide

end Sys2Proof.Tests
end

section
/-!
Proofs of the statements about the state (10_state.md): what every operation keeps of the invariants of R32, which commands
write which register (R20), what a step does to CVERR, ERR and the alphabet, and what the register window shows (R33 to R41).
-/

namespace Sys2Proof.Machine

/-! ### The invariants of R32 under each register update -/

/-! The invariants do not speak of the events to come, of the answer, or of RESULT. -/

theorem StateInvariant.setPending {s : State} (h : StateInvariant s) (es : List Event) :
    StateInvariant (s.setPending es) := h

theorem StateInvariant.setResponse {s : State} (h : StateInvariant s) (r : Option Response) :
    StateInvariant (s.setResponse r) := h

theorem StateInvariant.setResult {s : State} (h : StateInvariant s) (r : Word) : StateInvariant (s.setResult r) := h

theorem StateInvariant.setErr {s : State} (h : StateInvariant s) {e : BitVec 4} (he : e.toNat ≤ 5) :
    StateInvariant (s.setErr e) := by
  obtain ⟨hchk, hnbits, hacc, hcodes, hpad, -⟩ := h
  exact ⟨hchk, hnbits, hacc, hcodes, hpad, he⟩

/-- Every residue is below `2^30`: CHK has 30 bits. -/
theorem StateInvariant.setChk {s : State} (h : StateInvariant s) (c : Residue) : StateInvariant (s.setChk c) := by
  obtain ⟨-, hrest⟩ := h
  exact ⟨c.isLt, hrest⟩

theorem StateInvariant.setMatched {s : State} (h : StateInvariant s) {m : BitVec 2} (hm : m ≠ 3) :
    StateInvariant (s.setMatched m) := by
  obtain ⟨hchk, hnbits, hacc, ⟨hcverr, -⟩, hpad, herr⟩ := h
  exact ⟨hchk, hnbits, hacc, ⟨hcverr, hm⟩, hpad, herr⟩

theorem StateInvariant.setBuffer {s : State} (h : StateInvariant s) {a : BitVec 8} {n : BitVec 4}
    (hn : n.toNat ≤ s.cfgT.toNat) (ha : a.toNat < 2 ^ n.toNat) : StateInvariant (s.setBuffer a n) := by
  obtain ⟨hchk, -, -, hrest⟩ := h
  exact ⟨hchk, hn, ha, hrest⟩

/-- An empty buffer fits every configuration. -/
theorem StateInvariant.setBuffer_empty {s : State} (h : StateInvariant s) : StateInvariant (s.setBuffer 0 0) :=
  h.setBuffer (Nat.zero_le _) Nat.one_pos

theorem StateInvariant.setConverterError {s : State} (h : StateInvariant s) {e : BitVec 2} {x nz : Bool}
    (he : e ≠ 3) (hx : e ≠ 2 → x = false ∧ nz = false) : StateInvariant (s.setConverterError e x nz) := by
  obtain ⟨hchk, hnbits, hacc, ⟨-, hmatched⟩, -, herr⟩ := h
  exact ⟨hchk, hnbits, hacc, ⟨he, hmatched⟩, hx, herr⟩

/-- A new configuration keeps the invariants where the buffer is emptied with it, whatever was buffered. -/
theorem StateInvariant.setConfig_setBuffer_empty {s : State} (h : StateInvariant s) (f t : BitVec 3) (p : Bool) :
    StateInvariant ((s.setConfig f t p).setBuffer 0 0) := by
  obtain ⟨hchk, -, -, hrest⟩ := h
  exact ⟨hchk, Nat.zero_le _, Nat.one_pos, hrest⟩

theorem stateInvariant_reset : StateInvariant State.reset := by
  decide

/-- The reset values meet the invariants, whatever alphabet, events and answer stand beside them. -/
theorem stateInvariant_resetRegisters (s : State) : StateInvariant s.resetRegisters :=
  stateInvariant_reset

/-- Settles O15: the values are fixed. -/
theorem resetMeetsTheInvariant : Obligations.ResetMeetsTheInvariant := by
  unfold Obligations.ResetMeetsTheInvariant
  exact ⟨stateInvariant_reset, by decide⟩

/-! ### Commands and steps keep the invariants -/

theorem matchCode_ne_three (c : Residue) : matchCode c ≠ 3 := by
  unfold matchCode
  split_ifs <;> decide

/-- The bits an accepted input leaves buffered are those no whole group takes (42_bitconv.md R122). -/
theorem pushAccepted_nbits_toNat (b : Byte) (s : State) :
    (pushAccepted b s).nbits.toNat = (s.nbits.toNat + s.fromBits) % s.toBits := by
  have hlt : (s.nbits.toNat + s.fromBits) % s.toBits < s.toBits := Nat.mod_lt _ (Nat.succ_pos _)
  have hto : s.toBits ≤ 8 := s.cfgT.isLt
  simp only [pushAccepted, State.setResult_nbits, State.setBuffer_nbits, BitVec.toNat_ofNat,
    Nat.mul_comm _ s.toBits, ← Nat.mod_eq_sub_mul_div]
  omega

/-- ACC keeps the buffered bits of the old bits followed by the input (42_bitconv.md R122). -/
theorem pushAccepted_acc_toNat (b : Byte) (s : State) :
    (pushAccepted b s).acc.toNat =
      (s.acc.toNat <<< s.fromBits ||| b.toNat) % 2 ^ ((s.nbits.toNat + s.fromBits) % s.toBits) := by
  have hlt : (s.nbits.toNat + s.fromBits) % s.toBits < s.toBits := Nat.mod_lt _ (Nat.succ_pos _)
  have hto : s.toBits ≤ 8 := s.cfgT.isLt
  have hpow : 2 ^ ((s.nbits.toNat + s.fromBits) % s.toBits) ∣ 2 ^ 8 := Nat.pow_dvd_pow 2 (by omega)
  simp only [pushAccepted, State.setResult_acc, State.setBuffer_acc, BitVec.toNat_ofNat, lowMask,
    Nat.mul_comm _ s.toBits, ← Nat.mod_eq_sub_mul_div, Nat.and_two_pow_sub_one_eq_mod]
  exact Nat.mod_eq_of_lt (lt_of_lt_of_le (Nat.mod_lt _ (Nat.two_pow_pos _)) (Nat.le_of_dvd (by decide) hpow))

/-- An accepted input leaves fewer than `toBits` bits, and no others in ACC. -/
theorem StateInvariant.pushAccepted {s : State} (h : StateInvariant s) (b : Byte) :
    StateInvariant (pushAccepted b s) := by
  refine StateInvariant.setResult (h.setBuffer ?_ ?_) _
  · have hlt : (s.nbits.toNat + s.fromBits) % s.toBits < s.toBits := Nat.mod_lt _ (Nat.succ_pos _)
    exact (pushAccepted_nbits_toNat b s).trans_le (Nat.le_of_lt_succ hlt)
  · have hacc := pushAccepted_acc_toNat b s
    rw [← pushAccepted_nbits_toNat b s] at hacc
    exact hacc.trans_lt (Nat.mod_lt _ (Nat.two_pow_pos _))

/-- Where no error is latched there is no padding cause either. -/
theorem StateInvariant.pad_of_cverr_zero {s : State} (h : StateInvariant s) (hc : s.cverr = 0) :
    s.padx = false ∧ s.padnz = false := by
  obtain ⟨-, -, -, -, hpad, -⟩ := h
  exact hpad (by rw [hc]; decide)

/-- Every command keeps the invariants. -/
theorem exec_keeps_invariant (i : Instr) (s t : State) (hs : StateInvariant s) (h : exec i s = .next t) :
    StateInvariant t := by
  cases i with
  | nop => cases h; exact hs.setErr (by decide)
  | rst => cases h; exact stateInvariant_resetRegisters s
  | csEnc v => cases h; exact (hs.setResult _).setErr (by decide)
  | csDec b =>
    rcases (execCsDec_next b s t).1 h with ⟨_, _, rfl⟩ | ⟨_, rfl⟩ <;> exact (hs.setResult _).setErr (by decide)
  | cvInit f u p =>
    cases h
    exact ((hs.setConfig_setBuffer_empty f u p).setConverterError (by decide) fun _ => ⟨rfl, rfl⟩).setErr (by decide)
  | cvPush b =>
    rcases (execCvPush_next b s t).1 h with ⟨_, rfl⟩ | ⟨hc, _, rfl⟩ | ⟨_, _, rfl⟩
    · exact (hs.setResult 0).setErr (by decide)
    · have hrange := hs.setConverterError (e := 1) (by decide) fun _ => hs.pad_of_cverr_zero hc
      exact (hrange.setResult 0).setErr (by decide)
    · exact (hs.pushAccepted b).setErr (by decide)
  | cvFlush =>
    rcases (execCvFlush_next s t).1 h with ⟨_, rfl⟩ | ⟨_, _, rfl⟩ | ⟨_, _, _, rfl⟩ | ⟨_, _, _, rfl⟩
    · exact (hs.setResult 0).setErr (by decide)
    · exact (hs.setResult _).setBuffer_empty.setErr (by decide)
    · have hpadding := hs.setConverterError (e := 2) (x := s.tooManyLeft) (nz := s.nonZeroLeft) (by decide)
        fun hne => absurd rfl hne
      exact (hpadding.setResult 0).setErr (by decide)
    · exact (hs.setResult _).setBuffer_empty.setErr (by decide)
  | ckInit => cases h; exact ((hs.setChk _).setMatched (by decide)).setErr (by decide)
  | ckSym v => cases h; exact (hs.setChk _).setErr (by decide)
  | ckHrpHi b => cases h; exact (hs.setChk _).setErr (by decide)
  | ckHrpLo b => cases h; exact (hs.setChk _).setErr (by decide)
  | ckFinish k => cases h; exact ((hs.setChk _).setResult _).setErr (by decide)
  | ckVerify => cases h; exact ((hs.setMatched (matchCode_ne_three s.chk)).setResult _).setErr (by decide)

/-- Every word, an illegal one too, keeps the invariants. -/
theorem execute_keeps_invariant (w : Word) (s t : State) (hs : StateInvariant s) (h : execute w s = .next t) :
    StateInvariant t := by
  rcases (execute_next w s t).1 h with ⟨i, _, hi⟩ | ⟨_, _, rfl⟩
  · exact exec_keeps_invariant i s t hs hi
  · exact hs.setErr (by decide)

/-- Settles O16: a step runs a command, resets the block, or changes only the model's own fields, and each keeps the
invariants. -/
theorem stepKeepsTheInvariant : Obligations.StepKeepsTheInvariant := by
  unfold Obligations.StepKeepsTheInvariant
  intro s t hs h
  rcases step_cases s t h with ⟨_, rest, w, u, _, _, hu, rfl⟩ | ⟨_, rest, _, rfl⟩ | ⟨rest, r, rfl⟩
  · exact (execute_keeps_invariant w _ u (hs.setPending rest) hu).setResponse _
  · exact (stateInvariant_resetRegisters _).setResponse none
  · exact (hs.setPending rest).setResponse r

/-- What every step keeps, every run keeps. -/
theorem core_run_keeps {P : State → Prop} (hstep : ∀ s t, P s → step s = .next t → P t) (k : Nat) (s t : State)
    (hs : P s) (h : Sys2Proof.core.run k s = .next t) : P t := by
  induction k generalizing s with
  | zero =>
    rw [core_run_zero] at h
    cases h
    exact hs
  | succ k ih =>
    obtain ⟨u, hu⟩ := step_answers_next s
    rw [core_run_succ k s u hu] at h
    exact ih u (hstep s u hs hu) h

/-- Settles O17, by induction on the number of steps. -/
theorem reachableStatesMeetTheInvariant : Obligations.ReachableStatesMeetTheInvariant := by
  unfold Obligations.ReachableStatesMeetTheInvariant
  intro events k t h
  exact core_run_keeps stepKeepsTheInvariant k (State.reset.setPending events) t
    (stateInvariant_reset.setPending events) h

/-! ### What a command reads and writes (10_state.md R20, R30, R40) -/

/-- On a latched error CV.PUSH does nothing else but report it (42_bitconv.md R127). -/
theorem execCvPush_latched (b : Byte) (s t : State) (hc : s.cverr ≠ 0) (h : execCvPush b s = .next t) :
    t = (s.setResult 0).setErr 5 := by
  rcases (execCvPush_next b s t).1 h with ⟨_, ht⟩ | ⟨h0, _⟩ | ⟨h0, _⟩
  · exact ht
  · exact absurd h0 hc
  · exact absurd h0 hc

/-- On a latched error CV.FLUSH does nothing else but report it (42_bitconv.md R127). -/
theorem execCvFlush_latched (s t : State) (hc : s.cverr ≠ 0) (h : execCvFlush s = .next t) :
    t = (s.setResult 0).setErr 5 := by
  rcases (execCvFlush_next s t).1 h with ⟨_, ht⟩ | ⟨h0, _⟩ | ⟨h0, _⟩ | ⟨h0, _⟩
  · exact ht
  · exact absurd h0 hc
  · exact absurd h0 hc
  · exact absurd h0 hc

/-- No command reads ERR, and each writes it (10_state.md R30): both sides end in the same `setErr`, or in a reset. -/
theorem exec_setErr (i : Instr) (s : State) (e : BitVec 4) : exec i (s.setErr e) = exec i s := by
  cases i <;> rfl

/-- No word reads ERR, and each, an illegal one too, writes it. -/
theorem execute_setErr (w : Word) (s : State) (e : BitVec 4) : execute w (s.setErr e) = execute w s := by
  unfold execute
  cases decode w with
  | command i => exact exec_setErr i s e
  | illegal _ => rfl

/-- A command outside the charset family has the same effect whatever the alphabet holds (10_state.md R40). -/
theorem exec_withCharset (i : Instr) (s t : State) (rom : Vector Byte 32) (hi : i.isCharset = false)
    (h : exec i s = .next t) : exec i { s with charset := rom } = .next { t with charset := rom } := by
  cases i with
  | csEnc v => cases hi
  | csDec b => cases hi
  | cvPush b =>
    refine (execCvPush_next b _ _).2 ?_
    rcases (execCvPush_next b s t).1 h with ⟨hc, rfl⟩ | ⟨hc, hb, rfl⟩ | ⟨hc, hb, rfl⟩
    · exact .inl ⟨hc, rfl⟩
    · exact .inr (.inl ⟨hc, hb, rfl⟩)
    · exact .inr (.inr ⟨hc, hb, rfl⟩)
  | cvFlush =>
    refine (execCvFlush_next _ _).2 ?_
    rcases (execCvFlush_next s t).1 h with ⟨hc, rfl⟩ | ⟨hc, hp, rfl⟩ | ⟨hc, hp, hpad, rfl⟩ | ⟨hc, hp, hpad, rfl⟩
    · exact .inl ⟨hc, rfl⟩
    · exact .inr (.inl ⟨hc, hp, rfl⟩)
    · exact .inr (.inr (.inl ⟨hc, hp, hpad, rfl⟩))
    · exact .inr (.inr (.inr ⟨hc, hp, hpad, rfl⟩))
  | _ => cases h; rfl

theorem step_keeps_charset (s t : State) (h : step s = .next t) : t.charset = s.charset := by
  rcases step_cases s t h with ⟨_, rest, w, u, _, _, hu, rfl⟩ | ⟨_, _, _, rfl⟩ | ⟨_, _, rfl⟩
  · obtain ⟨hcharset, -, -⟩ := execute_frame w _ u hu
    exact hcharset
  · rfl
  · rfl

/-- Settles O18: the alphabet's frame, and its irrelevance outside the charset family. -/
theorem alphabetIsReadOnly : Obligations.AlphabetIsReadOnly := by
  unfold Obligations.AlphabetIsReadOnly
  exact ⟨step_keeps_charset, exec_withCharset⟩

/-- Settles O19: the commands with several outcomes are CS.DEC, CV.PUSH and CV.FLUSH; each other command leads to one state,
which differs from the first in its written registers only. -/
theorem registersChangeOnlyByTheirWriters : Obligations.RegistersChangeOnlyByTheirWriters := by
  unfold Obligations.RegistersChangeOnlyByTheirWriters
  intro i s t h
  obtain ⟨hcharset, hpending, hresponse⟩ := exec_frame i s t h
  refine ⟨⟨hcharset.symm, hpending.symm, hresponse.symm⟩, ?_⟩
  cases i with
  | csDec b => rcases (execCsDec_next b s t).1 h with ⟨_, _, rfl⟩ | ⟨_, rfl⟩ <;> simp
  | cvPush b =>
    rcases (execCvPush_next b s t).1 h with ⟨_, rfl⟩ | ⟨_, _, rfl⟩ | ⟨_, _, rfl⟩ <;> simp [pushAccepted]
  | cvFlush =>
    rcases (execCvFlush_next s t).1 h with ⟨_, rfl⟩ | ⟨_, _, rfl⟩ | ⟨_, _, _, rfl⟩ | ⟨_, _, _, rfl⟩ <;> simp
  | _ => cases h; simp

/-- Of the four writers of CVERR, CV.PUSH and CV.FLUSH keep a latched error (10_state.md R27, 42_bitconv.md R127). -/
theorem exec_keeps_latched_cverr (i : Instr) (s t : State) (hc : s.cverr ≠ 0) (hrst : i ≠ .rst)
    (hinit : ∀ f u p, i ≠ .cvInit f u p) (h : exec i s = .next t) : t.cverr = s.cverr := by
  obtain ⟨-, -, -, -, hwriters, -⟩ := registersChangeOnlyByTheirWriters i s t h
  by_contra hne
  rcases hwriters hne with rfl | ⟨f, u, p, rfl⟩ | ⟨b, rfl⟩ | rfl
  · exact hrst rfl
  · exact hinit f u p rfl
  · rw [execCvPush_latched b s t hc h] at hne
    exact hne rfl
  · rw [execCvFlush_latched s t hc h] at hne
    exact hne rfl

/-! ### What an event does to CVERR and ERR (10_state.md R27, R30) -/

theorem Event.decode_ne_rst {e : Event} {w : Word} (hw : e.commandWord = some w) (hr : e.resets = false) :
    decode w ≠ .command .rst := by
  cases e with
  | access a => simpa [Event.resets, hw] using hr
  | idle => cases hw
  | reset _ => cases hw

theorem Event.decode_ne_cvInit {e : Event} {w : Word} (hw : e.commandWord = some w) (hs : e.startsConverter = false)
    (f t : BitVec 3) (p : Bool) : decode w ≠ .command (.cvInit f t p) := by
  intro hd
  simp [Event.startsConverter, hw, hd, Instr.opcode] at hs

theorem execute_keeps_latched_cverr (w : Word) (s t : State) (hc : s.cverr ≠ 0) (hrst : decode w ≠ .command .rst)
    (hinit : ∀ f u p, decode w ≠ .command (.cvInit f u p)) (h : execute w s = .next t) : t.cverr = s.cverr := by
  rcases (execute_next w s t).1 h with ⟨i, hd, hi⟩ | ⟨_, _, rfl⟩
  · rw [hd] at hrst hinit
    exact exec_keeps_latched_cverr i s t hc (fun e => hrst (congrArg _ e)) (fun f u p e => hinit f u p (congrArg _ e)) hi
  · rfl

/-- Settles O20: the event is a command but RST and CV.INIT, an illegal word, or no command at all. -/
theorem converterErrorIsSticky : Obligations.ConverterErrorIsSticky := by
  unfold Obligations.ConverterErrorIsSticky
  intro s t e rest hp hc h hr hs
  rw [step_cons s e rest hp] at h
  rcases performEvent_cases e _ t h with ⟨w, u, hw, hu, rfl⟩ | ⟨_, rfl, _⟩ | ⟨_, _, _, rfl⟩
  · exact execute_keeps_latched_cverr w (s.setPending rest) u hc (Event.decode_ne_rst hw hr) (Event.decode_ne_cvInit hw hs) hu
  · cases hr
  · rfl

/-- A write to CMD leads to the same state whatever ERR holds. -/
theorem performEvent_setErr {e : Event} {w : Word} (hw : e.commandWord = some w) (s : State) (x : BitVec 4) :
    performEvent e (s.setErr x) = performEvent e s := by
  rw [performEvent_command e w _ hw, performEvent_command e w s hw, writeCommand, execute_setErr]
  rfl

/-- Settles O21: an event that is no command and no reset changes only the answer, and a command does not read ERR. -/
theorem errIsTheLastCommandsCode : Obligations.ErrIsTheLastCommandsCode := by
  unfold Obligations.ErrIsTheLastCommandsCode
  constructor
  · intro s t e rest hp h hw hr
    rw [step_cons s e rest hp] at h
    rcases performEvent_cases e _ t h with ⟨w, _, hw', _⟩ | ⟨_, rfl, _⟩ | ⟨_, _, _, rfl⟩
    · rw [hw] at hw'
      cases hw'
    · cases hr
    · rfl
  · intro s e w rest x hp hw
    calc step (s.setErr x)
      _ = performEvent e ((s.setPending rest).setErr x) := step_cons (s.setErr x) e rest hp
      _ = performEvent e (s.setPending rest) := performEvent_setErr hw (s.setPending rest) x
      _ = step s := (step_cons s e rest hp).symm

/-! ### The register window (10_state.md R33 to R41, 20_memory.md R54) -/

@[simp] theorem readReg_cmd (s : State) : readReg 0x00 s = 0 := rfl
@[simp] theorem readReg_result (s : State) : readReg 0x04 s = s.result := rfl
@[simp] theorem readReg_status (s : State) : readReg 0x08 s = s.statusWord := rfl
@[simp] theorem readReg_chk (s : State) : readReg 0x0C s = s.chkWord := rfl
@[simp] theorem readReg_cvstate (s : State) : readReg 0x10 s = s.cvstateWord := rfl
@[simp] theorem readReg_cvcfg (s : State) : readReg 0x14 s = s.cvcfgWord := rfl
@[simp] theorem readReg_reserved18 (s : State) : readReg 0x18 s = 0 := rfl
@[simp] theorem readReg_reserved1C (s : State) : readReg 0x1C s = 0 := rfl

/-- An access is admitted when it is whole and aligned (20_memory.md R53). -/
theorem Access.admitted_iff (a : Access) : a.admitted = true ↔ a.be = 0b1111 ∧ a.addr.toNat % 4 = 0 := by
  have hlow : a.addr.extractLsb' 0 2 = 0#2 ↔ a.addr.toNat % 4 = 0 := by
    rw [← BitVec.toNat_inj]
    simp [BitVec.extractLsb'_toNat]
  simp [Access.admitted, hlow]

/-- An admitted read answers the register at its offset and changes nothing else (20_memory.md R54). -/
theorem performEvent_read (a : Access) (s : State) (ha : a.admitted = true) (hwe : a.we = false) :
    performEvent (.access a) s = .next (s.setResponse (some (.data (readReg a.addr s)))) := by
  simp [performEvent, performAccess, respond, ha, hwe]

/-- The words of the reset table (10_state.md R42). -/
theorem readReg_reset :
    readReg 0x04 State.reset = 0x00000000 ∧ readReg 0x08 State.reset = 0x00000000 ∧
      readReg 0x0C State.reset = 0x00000001 ∧ readReg 0x10 State.reset = 0x00000000 ∧
      readReg 0x14 State.reset = 0x00000147 := by
  decide

/-- Settles O8: the step is an admitted read, and each offset's word is read field by field. -/
theorem readAnswersTheRegister : Obligations.ReadAnswersTheRegister := by
  unfold Obligations.ReadAnswersTheRegister
  refine ⟨fun s rest a hp hbe hoff hwe => ⟨readReg a.addr s, ?_, ?_⟩, readReg_reset⟩
  · rw [step_cons s _ rest hp, performEvent_read a _ ((Access.admitted_iff a).2 ⟨hbe, hoff⟩) hwe]
    rfl
  · refine ⟨?_, ?_, ?_, ?_, ?_, ?_, ?_, ?_⟩ <;> intro haddr <;> rw [haddr]
    · rw [readReg_cmd]
    · rw [readReg_result]
    · rw [readReg_status, State.statusWord_toNat]
    · rw [readReg_chk, State.chkWord_toNat]
    · rw [readReg_cvstate, State.cvstateWord_toNat]
    · rw [readReg_cvcfg, State.cvcfgWord_toNat]
    · rw [readReg_reserved18]
    · rw [readReg_reserved1C]

/-- Two bits with one value are one. -/
theorem bool_eq_of_toNat_eq {a b : Bool} (h : a.toNat = b.toNat) : a = b := by
  revert h; cases a <;> cases b <;> decide

/-- No two fields of STATUS overlap, so the word determines each. -/
theorem State.statusWord_injective {s t : State} (h : s.statusWord = t.statusWord) :
    s.err = t.err ∧ s.matched = t.matched ∧ s.cverr = t.cverr ∧ s.padx = t.padx ∧ s.padnz = t.padnz := by
  have hw := congrArg BitVec.toNat h
  rw [statusWord_toNat, statusWord_toNat] at hw
  have := s.err.isLt
  have := t.err.isLt
  have := s.matched.isLt
  have := t.matched.isLt
  have := s.cverr.isLt
  have := t.cverr.isLt
  have := s.padx.toNat_le
  have := t.padx.toNat_le
  refine ⟨BitVec.eq_of_toNat_eq ?_, BitVec.eq_of_toNat_eq ?_, BitVec.eq_of_toNat_eq ?_, bool_eq_of_toNat_eq ?_,
    bool_eq_of_toNat_eq ?_⟩ <;> omega

theorem State.chkWord_injective {s t : State} (h : s.chkWord = t.chkWord) : s.chk = t.chk := by
  apply BitVec.eq_of_toNat_eq
  rw [← chkWord_toNat, ← chkWord_toNat, h]

theorem State.cvstateWord_injective {s t : State} (h : s.cvstateWord = t.cvstateWord) :
    s.acc = t.acc ∧ s.nbits = t.nbits := by
  have hw := congrArg BitVec.toNat h
  rw [cvstateWord_toNat, cvstateWord_toNat] at hw
  have := s.acc.isLt
  have := t.acc.isLt
  constructor <;> apply BitVec.eq_of_toNat_eq <;> omega

theorem State.cvcfgWord_injective {s t : State} (h : s.cvcfgWord = t.cvcfgWord) :
    s.cfgF = t.cfgF ∧ s.cfgT = t.cfgT ∧ s.cfgP = t.cfgP := by
  have hw := congrArg BitVec.toNat h
  rw [cvcfgWord_toNat, cvcfgWord_toNat] at hw
  have := s.cfgF.isLt
  have := t.cfgF.isLt
  have := s.cfgT.isLt
  have := t.cfgT.isLt
  refine ⟨BitVec.eq_of_toNat_eq ?_, BitVec.eq_of_toNat_eq ?_, bool_eq_of_toNat_eq ?_⟩ <;> omega

/-- Settles O11: each of the five words determines its registers. -/
theorem windowShowsEveryRegister : Obligations.WindowShowsEveryRegister := by
  unfold Obligations.WindowShowsEveryRegister
  intro s t hresult hstatus hchk hcvstate hcvcfg
  simp only [readReg_result, readReg_status, readReg_chk, readReg_cvstate,
    readReg_cvcfg] at hresult hstatus hchk hcvstate hcvcfg
  obtain ⟨herr, hmatched, hcverr, hpadx, hpadnz⟩ := State.statusWord_injective hstatus
  obtain ⟨hacc, hnbits⟩ := State.cvstateWord_injective hcvstate
  obtain ⟨hcfgF, hcfgT, hcfgP⟩ := State.cvcfgWord_injective hcvcfg
  exact ⟨⟨State.chkWord_injective hchk, hmatched⟩, ⟨hacc, hnbits, hcfgF, hcfgT, hcfgP, hcverr, hpadx, hpadnz⟩, herr,
    hresult⟩

/-! ### Reset (10_state.md R42) -/

/-- A host's write of a word to CMD executes the word and is acknowledged (20_memory.md R55). -/
theorem step_writeCmd (s t : State) (rest : List Event) (w : Word)
    (hp : s.pending = .access { we := true, addr := 0, be := 0b1111, wdata := w } :: rest)
    (h : execute w (s.setPending rest) = .next t) : step s = .next (t.setResponse (some .ack)) := by
  rw [step_cons s _ rest hp, performEvent_command _ w _ rfl, writeCommand_next]
  exact ⟨t, h, rfl⟩

/-- Settles O14: every source runs `resetRegisters`, which holds the table's values. -/
theorem resetSourcesAgree : Obligations.ResetSourcesAgree := by
  have hdecode : decode 0x01000000 = .command .rst := by decide
  unfold Obligations.ResetSourcesAgree
  refine ⟨by decide, hdecode, fun s => rfl, ?_, fun sel we addr be wdata => ⟨_, rfl⟩, ?_, fun s => readReg_reset⟩
  · intro s rest hp
    exact step_writeCmd s (s.setPending rest).resetRegisters rest _ hp ((execute_next _ _ _).2 (.inl ⟨.rst, hdecode, rfl⟩))
  · intro s inProgress rest hp
    exact step_cons s _ rest hp

end Sys2Proof.Machine
end

section
/-!
Proofs of the statements about the bus (20_memory.md): what each kind of access does (R53 to R57), that no step stops, and
where the register window stands (R51, R52).
-/

namespace Sys2Proof.Machine

/-! ### Every step completes (20_memory.md R53) -/

/-- No event, not even a command or a reset, touches the events still to come. -/
theorem performEvent_keeps_pending (e : Event) (s t : State) (h : performEvent e s = .next t) :
    t.pending = s.pending := by
  rcases performEvent_cases e s t h with ⟨w, u, _, hu, rfl⟩ | ⟨_, _, rfl⟩ | ⟨_, _, _, rfl⟩
  · obtain ⟨-, hpending, -⟩ := execute_frame w s u hu
    exact hpending
  · rfl
  · rfl

/-- A step takes one event from the list, if one is there. -/
theorem step_pending (s t : State) (h : step s = .next t) : t.pending = s.pending.tail := by
  cases hp : s.pending with
  | nil =>
    rw [step_nil s hp] at h
    cases h
    exact hp
  | cons e rest =>
    rw [step_cons s e rest hp] at h
    exact performEvent_keeps_pending e (s.setPending rest) t h

/-- Settles O13: a step answers a next state, and takes its one event from the list. -/
theorem everyStepCompletes : Obligations.EveryStepCompletes := by
  unfold Obligations.EveryStepCompletes
  intro s
  obtain ⟨t, ht⟩ := step_answers_next s
  exact ⟨t, ht, step_pending s t ht⟩

/-! ### Command writes, other writes and accesses that are not admitted (20_memory.md R53, R55 to R57) -/

/-- Settles O5: executing the written word is exec of the command it decodes to. -/
theorem stepRunsTheDecodedCommand : Obligations.StepRunsTheDecodedCommand := by
  unfold Obligations.StepRunsTheDecodedCommand
  intro s rest w i t hp hdecode hexec
  exact step_writeCmd s t rest w hp ((execute_next w (s.setPending rest) t).2 (.inl ⟨i, hdecode, hexec⟩))

/-- An access that is not admitted answers a bus error and does nothing else (20_memory.md R57). -/
theorem performEvent_unadmitted (a : Access) (s : State) (ha : a.admitted = false) :
    performEvent (.access a) s = .next (s.setResponse (some .busError)) := by
  simp [performEvent, performAccess, respond, ha]

/-- Settles O7: an access with a byte enable clear or an unaligned offset is not admitted. -/
theorem unadmittedAccessIsABusError : Obligations.UnadmittedAccessIsABusError := by
  unfold Obligations.UnadmittedAccessIsABusError
  refine ⟨rfl, rfl, fun s hr => ?_, fun s rest a hp hbad => ?_⟩
  · rw [State.ready, hr, Option.isSome_some]
  · have ha : a.admitted = false := by
      rw [Bool.eq_false_iff, Ne, Access.admitted_iff]
      exact not_and_or.2 hbad
    rw [step_cons s _ rest hp, performEvent_unadmitted a _ ha]
    rfl

/-- An admitted write to any offset but CMD is acknowledged and does nothing else (20_memory.md R56). -/
theorem performEvent_ignoredWrite (a : Access) (s : State) (ha : a.admitted = true) (hwe : a.we = true)
    (haddr : a.addr ≠ 0) : performEvent (.access a) s = .next (s.setResponse (some .ack)) := by
  simp only [performEvent, performAccess, respond, ha, hwe, haddr, Bool.not_true, Bool.false_eq_true, if_false]

/-- The model's own fields are no registers. -/
theorem sameRegisters_setPending_setResponse (s : State) (es : List Event) (r : Option Response) :
    SameRegisters s ((s.setPending es).setResponse r) := by
  simp [SameRegisters, SameChecksum, SameConverter]

/-- Settles O9: the ignored write is served as such, and an event that is no command and no reset changes only the answer. -/
theorem otherWritesAreIgnored : Obligations.OtherWritesAreIgnored := by
  unfold Obligations.OtherWritesAreIgnored
  refine ⟨rfl, fun s rest a hp hbe hoff hwe haddr => ?_, fun s t e rest hp hw hr h => ?_⟩
  · have ha : a.admitted = true := (Access.admitted_iff a).2 ⟨hbe, hoff⟩
    rw [step_cons s _ rest hp, performEvent_ignoredWrite a _ ha hwe haddr]
    rfl
  · obtain ⟨r, hother⟩ := performEvent_other e (s.setPending rest) hw hr
    rw [step_cons s e rest hp, hother] at h
    cases h
    exact sameRegisters_setPending_setResponse s rest r

/-! ### Where the register window stands (20_memory.md R51, R52) -/

/-- The block is selected at the 32 bytes from BASE on. -/
theorem windowSelects_iff (a : Nat) : windowSelects a = true ↔ Config.base ≤ a ∧ a < Config.base + 32 := by
  simp [windowSelects]

/-- At BASE + `off` an access reaches offset `off`. -/
theorem Event.atBusAddress_base_add (we : Bool) (off : BitVec 5) (be : BitVec 4) (wdata : Word) :
    Event.atBusAddress we (Config.base + off.toNat) be wdata =
      .access { we := we, addr := off, be := be, wdata := wdata } := by
  have hsel : windowSelects (Config.base + off.toNat) = true :=
    (windowSelects_iff _).2 ⟨Nat.le_add_right _ _, Nat.add_lt_add_left off.isLt _⟩
  simp [Event.atBusAddress, Event.ofPorts, hsel]

/-- Outside the window an access does not select the block. -/
theorem Event.atBusAddress_outside (we : Bool) (a : Nat) (be : BitVec 4) (wdata : Word)
    (ha : a < Config.base ∨ Config.base + 31 < a) : Event.atBusAddress we a be wdata = .idle := by
  have hsel : windowSelects a = false := by
    rw [Bool.eq_false_iff, Ne, windowSelects_iff]
    omega
  simp [Event.atBusAddress, Event.ofPorts, hsel]

/-- Settles O12: BASE is a multiple of 32 by definition, and reads and writes are accesses at a bus address. -/
theorem windowStandsAtBase : Obligations.WindowStandsAtBase := by
  unfold Obligations.WindowStandsAtBase
  refine ⟨Nat.mul_mod_right 32 Config.baseIndex, fun off => ?_, fun off w => ?_, fun a ha => ⟨?_, fun w => ?_⟩⟩
  · exact Event.atBusAddress_base_add false off 0b1111 0
  · exact Event.atBusAddress_base_add true off 0b1111 w
  · exact Event.atBusAddress_outside false a 0b1111 0 ha
  · exact Event.atBusAddress_outside true a 0b1111 w ha

end Sys2Proof.Machine
end

section
/-!
Proofs of the statements about decoding (30_encoding.md R81 to R86). The rows of R84 are read by format: what a format's row
asks of a word, and what the format writes, is said once for each of the five formats of R82.
-/

namespace Sys2Proof

/-! ### The rows of R84 by their formats -/

/-- A row of format N. -/
def rowN (op : BitVec 8) (i : Instr) : Row := ⟨0xFFFFFFFF, formatN op, fun _ => i⟩

/-- A row of format S. -/
def rowS (op : BitVec 8) (i : Symbol → Instr) : Row := ⟨0xFFFFFFE0, formatN op, fun w => i (fieldV w)⟩

/-- A row of format B. -/
def rowB (op : BitVec 8) (i : Byte → Instr) : Row := ⟨0xFFFFFF00, formatN op, fun w => i (fieldB w)⟩

/-- A row of format K. -/
def rowK (op : BitVec 8) (i : Kind → Instr) : Row := ⟨0xFFFFFFFE, formatN op, fun w => i (fieldK w)⟩

/-- A row of format C. -/
def rowC (op : BitVec 8) (i : BitVec 3 → BitVec 3 → Bool → Instr) : Row :=
  ⟨0xFFFFFE88, formatN op, fun w => i (fieldF w) (fieldT w) (fieldP w)⟩

theorem opcodeTable_eq : opcodeTable =
    [rowN 0x00 .nop, rowN 0x01 .rst, rowS 0x10 .csEnc, rowB 0x11 .csDec, rowC 0x20 .cvInit, rowB 0x21 .cvPush,
     rowN 0x22 .cvFlush, rowN 0x30 .ckInit, rowS 0x31 .ckSym, rowB 0x32 .ckHrpHi, rowB 0x33 .ckHrpLo,
     rowK 0x34 .ckFinish, rowN 0x35 .ckVerify] := by
  simp [opcodeTable, rowN, rowS, rowB, rowK, rowC, formatN]

/-! ### What a format writes, its row accepts and reads back -/

section RowDecodes
variable {op : BitVec 8}

theorem decode_formatN {i : Instr} (hr : rowN op i ∈ opcodeTable) : decode (formatN op) = .command i :=
  decode_of_row _ _ hr BitVec.and_allOnes

theorem decode_formatS {i : Symbol → Instr} (hr : rowS op i ∈ opcodeTable) (v : Symbol) :
    decode (formatS op v) = .command (i v) := by
  have hmask : formatS op v &&& 0xFFFFFFE0 = formatN op := by
    ext k hk; simp [formatS, formatN]; interval_cases k <;> simp
  simp only [decode_of_row _ _ hr hmask, rowS, fieldV_formatS]

theorem decode_formatB {i : Byte → Instr} (hr : rowB op i ∈ opcodeTable) (b : Byte) :
    decode (formatB op b) = .command (i b) := by
  have hmask : formatB op b &&& 0xFFFFFF00 = formatN op := by
    ext k hk; simp [formatB, formatN]; interval_cases k <;> simp
  simp only [decode_of_row _ _ hr hmask, rowB, fieldB_formatB]

theorem decode_formatK {i : Kind → Instr} (hr : rowK op i ∈ opcodeTable) (k : Kind) :
    decode (formatK op k) = .command (i k) := by
  have hmask : formatK op k &&& 0xFFFFFFFE = formatN op := by
    ext j hj; simp [formatK, formatN]; interval_cases j <;> simp
  simp only [decode_of_row _ _ hr hmask, rowK, fieldK_formatK]

theorem decode_formatC {i : BitVec 3 → BitVec 3 → Bool → Instr} (hr : rowC op i ∈ opcodeTable) (f t : BitVec 3)
    (p : Bool) : decode (formatC op f t p) = .command (i f t p) := by
  have hmask : formatC op f t p &&& 0xFFFFFE88 = formatN op := by
    ext k hk; simp [formatC, formatN]; interval_cases k <;> simp
  simp only [decode_of_row _ _ hr hmask, rowC, fieldF_formatC, fieldT_formatC, fieldP_formatC]

end RowDecodes

/-- Every command's word decodes to it. -/
theorem decode_encode (i : Instr) : decode (encode i) = .command i := by
  cases i with
  | nop => exact decode_formatN (op := 0x00) (by simp [opcodeTable_eq])
  | rst => exact decode_formatN (op := 0x01) (by simp [opcodeTable_eq])
  | csEnc v => exact decode_formatS (op := 0x10) (by simp [opcodeTable_eq]) v
  | csDec b => exact decode_formatB (op := 0x11) (by simp [opcodeTable_eq]) b
  | cvInit f t p => exact decode_formatC (op := 0x20) (by simp [opcodeTable_eq]) f t p
  | cvPush b => exact decode_formatB (op := 0x21) (by simp [opcodeTable_eq]) b
  | cvFlush => exact decode_formatN (op := 0x22) (by simp [opcodeTable_eq])
  | ckInit => exact decode_formatN (op := 0x30) (by simp [opcodeTable_eq])
  | ckSym v => exact decode_formatS (op := 0x31) (by simp [opcodeTable_eq]) v
  | ckHrpHi b => exact decode_formatB (op := 0x32) (by simp [opcodeTable_eq]) b
  | ckHrpLo b => exact decode_formatB (op := 0x33) (by simp [opcodeTable_eq]) b
  | ckFinish k => exact decode_formatK (op := 0x34) (by simp [opcodeTable_eq]) k
  | ckVerify => exact decode_formatN (op := 0x35) (by simp [opcodeTable_eq])

/-! ### What a row reads, its format writes back -/

theorem or_free_bits_N (x w : Word) : x ||| (w &&& ~~~(0xFFFFFFFF : Word)) = x := by
  rw [free_bits_N]
  exact BitVec.or_zero

/-- The bits a row's mask leaves free are the operands its format writes. -/
theorem encode_operands (w : Word) (r : Row) (hr : r ∈ opcodeTable) :
    encode (r.operands w) = r.pattern ||| (w &&& ~~~r.mask) := by
  simp only [opcodeTable_eq, List.mem_cons, List.not_mem_nil, or_false] at hr
  rcases hr with rfl | rfl | rfl | rfl | rfl | rfl | rfl | rfl | rfl | rfl | rfl | rfl | rfl <;>
    simp only [rowN, rowS, rowB, rowK, rowC, encode, Instr.opcode, formatS, formatB, formatK, formatC, or_free_bits_N,
      free_bits_S, free_bits_B, free_bits_K, free_bits_C, BitVec.or_assoc]

/-- A word that decodes to a command is the command's word. -/
theorem encode_of_decode (w : Word) (i : Instr) (h : decode w = .command i) : encode i = w := by
  obtain ⟨r, hr, hmeets, rfl⟩ := (decode_command_iff w i).1 h
  rw [encode_operands w r hr, ← word_split w r.mask r.pattern hmeets]

/-- Settles O1: every format is read back from what it writes, and a word that a row accepts is what the row's format
writes. -/
theorem decodeEncodeRoundTrip : Obligations.DecodeEncodeRoundTrip := by
  unfold Obligations.DecodeEncodeRoundTrip
  exact ⟨decode_encode, encode_of_decode⟩

/-! ### Decoding and executing by mask and match (30_encoding.md R85, R86) -/

/-- K is read as its bit. -/
theorem fieldK_eq (w : Word) : fieldK w = if w.getLsbD 0 then .bech32m else .bech32 := by
  have hbit : w.extractLsb' 0 1 = BitVec.ofBool (w.getLsbD 0) := by
    ext i hi
    simp [Nat.lt_one_iff.1 hi]
  rw [fieldK, hbit]
  cases w.getLsbD 0 <;> rfl

theorem Machine.execute_of_command {w : Word} {i : Instr} (h : decode w = .command i) (s : Machine.State) :
    Machine.execute w s = Machine.exec i s := by
  rw [Machine.execute, h]

/-- An illegal word does only `ERR <- 1`. -/
theorem Machine.execute_of_illegal {w : Word} {why : Illegal} (h : decode w = .illegal why) (s : Machine.State) :
    Machine.execute w s = .next { s with err := 1 } :=
  (Machine.execute_next w s _).2 (.inr ⟨why, h, rfl⟩)

/-- Settles O2: the rows written out are those of the opcode table. -/
theorem decodeFollowsMaskAndMatch : Obligations.DecodeFollowsMaskAndMatch := by
  unfold Obligations.DecodeFollowsMaskAndMatch
  intro rows
  have hrows : rows = opcodeTable.map fun r => (r.mask, r.pattern, r.operands) := by
    simp only [rows, opcodeTable, List.map_cons, List.map_nil, fieldK_eq]
    rfl
  simp only [hrows, List.forall_mem_map, Prod.mk.injEq]
  refine ⟨fun w r hr hmeets => ?_, fun w hnone => ?_, fun w r hr r' hr' hmeets hmeets' => ?_⟩
  · have hd := decode_of_row w r hr hmeets
    exact ⟨hd, Machine.execute_of_command hd⟩
  · obtain ⟨why, hd⟩ := (decode_illegal_iff w).2 hnone
    exact ⟨⟨why, hd⟩, Machine.execute_of_illegal hd⟩
  · rw [row_unique w r r' hr hr' hmeets hmeets']
    exact ⟨rfl, rfl⟩

/-! ### The two classes of illegal words (30_encoding.md R86) -/

theorem fieldOP_toNat (w : Word) : (fieldOP w).toNat = w.toNat / 2 ^ 24 := by
  rw [fieldOP, BitVec.extractLsb'_toNat, Nat.shiftRight_eq_div_pow]
  exact Nat.mod_eq_of_lt (Nat.div_lt_of_lt_mul w.isLt)

theorem fieldOP_eq_iff (w : Word) (op : BitVec 8) : fieldOP w = op ↔ w.toNat / 2 ^ 24 = op.toNat := by
  rw [← BitVec.toNat_inj, fieldOP_toNat]

/-- The opcode determines the row. -/
theorem row_eq_of_opcode {r r' : Row} (hr : r ∈ opcodeTable) (hr' : r' ∈ opcodeTable)
    (h : fieldOP r.pattern = fieldOP r'.pattern) : r = r' := by
  have hnodup : (opcodeTable.map fun r => fieldOP r.pattern).Nodup := by decide
  exact List.inj_on_of_nodup_map hnodup hr hr' h

/-- An opcode is assigned when a row has it. -/
theorem opcodeAssigned_iff (w : Word) :
    opcodeAssigned w = true ↔ ∃ r ∈ opcodeTable, fieldOP r.pattern = fieldOP w := by
  simp [opcodeAssigned]

theorem decode_unassignedOpcode_iff (w : Word) :
    decode w = .illegal .unassignedOpcode ↔ ¬ ∃ r ∈ opcodeTable, fieldOP r.pattern = fieldOP w := by
  rw [← opcodeAssigned_iff]
  cases hd : decode w with
  | command i =>
    obtain ⟨r, hr, hmeets, -⟩ := (decode_command_iff w i).1 hd
    have hassigned := (opcodeAssigned_iff w).2 ⟨r, hr, (fieldOP_of_row w r hr hmeets).symm⟩
    simp [hassigned]
  | illegal why =>
    unfold decode at hd
    split at hd
    · cases hd
    · cases hd
      cases opcodeAssigned w <;> simp

/-- The word has the row's opcode and sets a bit that the row's format reserves. -/
def Row.setsReserved (r : Row) (w : Word) : Prop := fieldOP r.pattern = fieldOP w ∧ w &&& r.mask ≠ r.pattern

theorem decode_reservedBitSet_iff (w : Word) :
    decode w = .illegal .reservedBitSet ↔ ∃ r ∈ opcodeTable, r.setsReserved w := by
  constructor
  · intro hd
    have hassigned : ∃ r ∈ opcodeTable, fieldOP r.pattern = fieldOP w := by
      by_contra hnone
      rw [(decode_unassignedOpcode_iff w).2 hnone] at hd
      cases hd
    obtain ⟨r, hr, hop⟩ := hassigned
    exact ⟨r, hr, hop, (decode_illegal_iff w).1 ⟨_, hd⟩ r hr⟩
  · rintro ⟨r, hr, hop, hmeets⟩
    have hnone : ∀ r' ∈ opcodeTable, w &&& r'.mask ≠ r'.pattern := by
      intro r' hr' hmeets'
      have hrow := row_eq_of_opcode hr hr' (hop.trans (fieldOP_of_row w r' hr' hmeets'))
      exact hmeets (hrow ▸ hmeets')
    obtain ⟨why, hd⟩ := (decode_illegal_iff w).2 hnone
    cases why with
    | reservedBitSet => exact hd
    | unassignedOpcode => exact absurd ⟨r, hr, hop⟩ ((decode_unassignedOpcode_iff w).1 hd)

/-- Under a mask that covers the opcode, a word is its opcode alone when its bits that the mask fixes below are 0. -/
theorem and_mask_eq_formatN_iff (w m : Word) (hm : fieldOP m = 0xFF) :
    w &&& m = formatN (fieldOP w) ↔ ∀ i < 24, m.getLsbD i = true → w.getLsbD i = false := by
  constructor
  · intro h i hi hmi
    have hbit := congrArg (·.getLsbD i) h
    simpa [formatN, hmi, hi] using hbit
  · intro h
    apply BitVec.eq_of_getLsbD_eq
    intro i hi
    rcases Nat.lt_or_ge i 24 with hlow | hhigh
    · cases hmi : m.getLsbD i with
      | false => simp [formatN, hmi, hlow]
      | true => simp [formatN, hlow, h i hlow hmi]
    · obtain ⟨j, rfl⟩ := Nat.exists_eq_add_of_le hhigh
      have hj : j < 8 := by omega
      have hmj : m.getLsbD (24 + j) = true := by
        have hones : (fieldOP m).getLsbD j = (BitVec.allOnes 8).getLsbD j := congrArg (·.getLsbD j) hm
        rw [BitVec.getLsbD_allOnes] at hones
        simpa [fieldOP, hj] using hones
      simp [formatN, fieldOP, hj, hi, hmj]

theorem extractLsb'_eq_zero_iff (w : Word) (a n : Nat) :
    w.extractLsb' a n = 0 ↔ ∀ i < n, w.getLsbD (a + i) = false := by
  simp [BitVec.eq_of_getLsbD_eq_iff]

/-- Where the mask fixes every bit below the opcode from `a` on, those are the reserved bits. -/
theorem accepts_iff_of_mask_from {w m : Word} (a n : Nat) (hm : fieldOP m = 0xFF) (hn : a + n = 24)
    (hbits : ∀ i < 24, m.getLsbD i = decide (a ≤ i)) :
    w &&& m = formatN (fieldOP w) ↔ w.extractLsb' a n = 0 := by
  rw [and_mask_eq_formatN_iff w m hm, extractLsb'_eq_zero_iff]
  constructor
  · intro h i hi
    exact h (a + i) (by omega) (by simp [hbits (a + i) (by omega)])
  · intro h i hi hmi
    have ha : a ≤ i := by simpa [hbits i hi] using hmi
    have := h (i - a) (by omega)
    rwa [Nat.add_sub_cancel' ha] at this

theorem accepts_iff_C (w : Word) :
    w &&& 0xFFFFFE88 = formatN (fieldOP w) ↔ w.extractLsb' 9 15 = 0 ∧ w.getLsbD 7 = false ∧ w.getLsbD 3 = false := by
  have hbits : ∀ i < 24, (0xFFFFFE88 : Word).getLsbD i = decide (9 ≤ i ∨ i = 7 ∨ i = 3) := by decide
  rw [and_mask_eq_formatN_iff w _ (by decide), extractLsb'_eq_zero_iff]
  constructor
  · intro h
    refine ⟨fun i hi => h (9 + i) (by omega) ?_, h 7 (by decide) (by decide), h 3 (by decide) (by decide)⟩
    rw [hbits (9 + i) (by omega)]
    simp
  · rintro ⟨hhigh, h7, h3⟩ i hi hmi
    rw [hbits i hi, decide_eq_true_iff] at hmi
    rcases hmi with h9 | rfl | rfl
    · have := hhigh (i - 9) (by omega)
      rwa [Nat.add_sub_cancel' h9] at this
    · exact h7
    · exact h3

/-- The reserved bits of a row are those whose clearing, `P`, makes the row accept a word of its opcode. -/
theorem setsReserved_iff (w : Word) (op : BitVec 8) (m : Word) (o : Word → Instr) (P : Prop)
    (h : w &&& m = formatN (fieldOP w) ↔ P) :
    (Row.mk m (formatN op) o).setsReserved w ↔ w.toNat / 2 ^ 24 = op.toNat ∧ ¬ P := by
  rw [Row.setsReserved, fieldOP_formatN, ← fieldOP_eq_iff, eq_comm]
  refine and_congr_right fun hop => ?_
  rw [← h, hop]

theorem rowN_setsReserved (w : Word) (op : BitVec 8) (i : Instr) :
    (rowN op i).setsReserved w ↔ w.toNat / 2 ^ 24 = op.toNat ∧ w.extractLsb' 0 24 ≠ 0 :=
  setsReserved_iff w op _ _ _ (accepts_iff_of_mask_from 0 24 (by decide) rfl (by decide))

theorem rowS_setsReserved (w : Word) (op : BitVec 8) (i : Symbol → Instr) :
    (rowS op i).setsReserved w ↔ w.toNat / 2 ^ 24 = op.toNat ∧ w.extractLsb' 5 19 ≠ 0 :=
  setsReserved_iff w op _ _ _ (accepts_iff_of_mask_from 5 19 (by decide) rfl (by decide))

theorem rowB_setsReserved (w : Word) (op : BitVec 8) (i : Byte → Instr) :
    (rowB op i).setsReserved w ↔ w.toNat / 2 ^ 24 = op.toNat ∧ w.extractLsb' 8 16 ≠ 0 :=
  setsReserved_iff w op _ _ _ (accepts_iff_of_mask_from 8 16 (by decide) rfl (by decide))

theorem rowK_setsReserved (w : Word) (op : BitVec 8) (i : Kind → Instr) :
    (rowK op i).setsReserved w ↔ w.toNat / 2 ^ 24 = op.toNat ∧ w.extractLsb' 1 23 ≠ 0 :=
  setsReserved_iff w op _ _ _ (accepts_iff_of_mask_from 1 23 (by decide) rfl (by decide))

theorem rowC_setsReserved (w : Word) (op : BitVec 8) (i : BitVec 3 → BitVec 3 → Bool → Instr) :
    (rowC op i).setsReserved w ↔ w.toNat / 2 ^ 24 = op.toNat ∧
      (w.extractLsb' 9 15 ≠ 0 ∨ w.getLsbD 7 = true ∨ w.getLsbD 3 = true) := by
  refine (setsReserved_iff w op _ _ _ (accepts_iff_C w)).trans ?_
  simp only [not_and_or, Bool.not_eq_false, ne_eq]

/-- Settles O3: no row has the opcode, or the row that has it leaves a bit set that its format reserves. -/
theorem illegalWordClasses : Obligations.IllegalWordClasses := by
  unfold Obligations.IllegalWordClasses
  refine ⟨fun w => ?_, fun w => ?_, fun w why s hd => Machine.execute_of_illegal hd s⟩
  · have hlt : w.toNat / 2 ^ 24 < 2 ^ 8 := Nat.div_lt_of_lt_mul w.isLt
    rw [decode_unassignedOpcode_iff]
    simp only [opcodeTable_eq, List.mem_cons, List.not_mem_nil, or_false, or_and_right, exists_or, exists_eq_left,
      rowN, rowS, rowB, rowK, rowC, fieldOP_formatN, eq_comm (b := fieldOP w), fieldOP_eq_iff, BitVec.ofNat_eq_ofNat,
      BitVec.toNat_ofNat]
    omega
  · rw [decode_reservedBitSet_iff]
    simp only [opcodeTable_eq, List.mem_cons, List.not_mem_nil, or_false, or_and_right, exists_or, exists_eq_left,
      rowN_setsReserved, rowS_setsReserved, rowB_setsReserved, rowK_setsReserved, rowC_setsReserved,
      BitVec.ofNat_eq_ofNat, BitVec.toNat_ofNat, Nat.reducePow, Nat.reduceMod]
    exact iff_of_eq (by ac_rfl)

/-- Settles O4: the words are fixed. -/
theorem decodesWordsOfTheSpec : Obligations.DecodesWordsOfTheSpec := by
  unfold Obligations.DecodesWordsOfTheSpec
  decide

/-! ### The formats as numbers (30_encoding.md R82) -/

theorem formatN_toNat (op : BitVec 8) : (formatN op).toNat = 2 ^ 24 * op.toNat := by
  rw [formatN, BitVec.toNat_shiftLeft, BitVec.toNat_setWidth, Nat.shiftLeft_eq]
  omega

/-- Operands stand below the opcode, so ORing them to it adds them. -/
theorem formatN_or_ofNat (op : BitVec 8) {x : Nat} (hx : x < 2 ^ 24) :
    formatN op ||| BitVec.ofNat 32 x = BitVec.ofNat 32 (2 ^ 24 * op.toNat + x) := by
  have hsum : 2 ^ 24 * op.toNat + x < 2 ^ 32 := by omega
  apply BitVec.eq_of_toNat_eq
  rw [BitVec.toNat_or, formatN_toNat, BitVec.toNat_ofNat, BitVec.toNat_ofNat, Nat.mod_eq_of_lt (by omega),
    Nat.mod_eq_of_lt hsum, Nat.two_pow_add_eq_or_of_lt hx]

/-- The three fields of format C do not overlap. -/
theorem formatC_fields : ∀ (f t : BitVec 3) (p : Bool),
    ((BitVec.ofBool p).setWidth 32 <<< 8 ||| (t.setWidth 32 <<< 4 ||| f.setWidth 32) : Word) =
      BitVec.ofNat 32 (2 ^ 8 * p.toNat + 2 ^ 4 * t.toNat + f.toNat) := by
  decide

end Sys2Proof
end

section
/-!
Proofs of the statements about the assembler (30_encoding.md R89 to R91): which words each line has, and what the commands
that CK.HRP expands to do.
-/

namespace Sys2Proof.Machine

/-! ### The words of a line (30_encoding.md R89) -/

/-- An operand out of its range is an assembly error. -/
theorem lineWords_of_not_wellFormed {l : AsmLine} (h : l.wellFormed = false) : lineWords l = none := by
  simp [lineWords, h]

theorem lineWords_of_wellFormed {l : AsmLine} (h : l.wellFormed = true) (hword : ∀ w, l ≠ .word w) :
    lineWords l = some ((expandLine l).map encode) := by
  cases l with
  | word w => exact absurd rfl (hword w)
  | _ => simp [lineWords, h]

theorem lineEvents_of_lineWords {l : AsmLine} {ws : List Word} (h : lineWords l = some ws)
    (hread : ∀ n, l ≠ .read n) : lineEvents l = some (ws.map commandEvent) := by
  cases l with
  | read n => exact absurd rfl (hread n)
  | _ => simp [lineEvents, h]

theorem lineWords_encodes {l : AsmLine} {ws : List Word} (h : lineWords l = some ws) (hword : ∀ w, l ≠ .word w) :
    ws = (expandLine l).map encode := by
  cases hl : l.wellFormed with
  | false => simp [lineWords_of_not_wellFormed hl] at h
  | true => simpa [lineWords_of_wellFormed hl hword, eq_comm] using h

/-- The line that writes a command. -/
def lineOfCommand : Instr → AsmLine
  | .nop => .nop
  | .rst => .rst
  | .csEnc v => .csEnc v.toNat
  | .csDec b => .csDec b.toNat
  | .cvInit f t p => .cvInit (f.toNat + 1) (t.toNat + 1) p
  | .cvPush b => .cvPush b.toNat
  | .cvFlush => .cvFlush
  | .ckInit => .ckInit
  | .ckSym v => .ckSym v.toNat
  | .ckHrpHi b => .ckHrpHi b.toNat
  | .ckHrpLo b => .ckHrpLo b.toNat
  | .ckFinish k => .ckFinish k.bit.toNat
  | .ckVerify => .ckVerify

theorem lineOfCommand_wellFormed (i : Instr) : (lineOfCommand i).wellFormed = true := by
  cases i with
  | csEnc v => exact decide_eq_true v.isLt
  | csDec b => exact decide_eq_true b.isLt
  | cvInit f t p =>
    simp only [lineOfCommand, AsmLine.wellFormed, Bool.and_eq_true, decide_eq_true_eq]
    omega
  | cvPush b => exact decide_eq_true b.isLt
  | ckSym v => exact decide_eq_true v.isLt
  | ckHrpHi b => exact decide_eq_true b.isLt
  | ckHrpLo b => exact decide_eq_true b.isLt
  | ckFinish k => exact decide_eq_true k.bit.isLt
  | _ => rfl

theorem kindOf_bit (k : Kind) : kindOf k.bit.toNat = k := by
  cases k <;> rfl

theorem expandLine_lineOfCommand (i : Instr) : expandLine (lineOfCommand i) = [i] := by
  cases i <;> simp [lineOfCommand, expandLine, symbolOf, byteOf, widthField, kindOf_bit]

theorem lineOfCommand_ne_word (i : Instr) (w : Nat) : lineOfCommand i ≠ .word w := by
  cases i <;> simp [lineOfCommand]

/-! ### Operands written as numbers (30_encoding.md R89) -/

theorem formatS_symbolOf (op : BitVec 8) {v : Nat} (hv : v < 32) :
    formatS op (symbolOf v) = BitVec.ofNat 32 (2 ^ 24 * op.toNat + v) := by
  have hfield : (symbolOf v).setWidth 32 = BitVec.ofNat 32 v := by
    simp [symbolOf, BitVec.setWidth_ofNat_of_le_of_lt, hv]
  rw [formatS, hfield, formatN_or_ofNat op (by omega)]

theorem formatB_byteOf (op : BitVec 8) {b : Nat} (hb : b < 256) :
    formatB op (byteOf b) = BitVec.ofNat 32 (2 ^ 24 * op.toNat + b) := by
  have hfield : (byteOf b).setWidth 32 = BitVec.ofNat 32 b := by
    simp [byteOf, BitVec.setWidth_ofNat_of_le_of_lt, hb]
  rw [formatB, hfield, formatN_or_ofNat op (by omega)]

theorem formatK_kindOf (op : BitVec 8) {k : Nat} (hk : k < 2) :
    formatK op (kindOf k) = BitVec.ofNat 32 (2 ^ 24 * op.toNat + k) := by
  have hfield : (kindOf k).bit.setWidth 32 = BitVec.ofNat 32 k := by
    interval_cases k <;> rfl
  rw [formatK, hfield, formatN_or_ofNat op (by omega)]

theorem widthField_toNat {f : Nat} (hf : f ≤ 8) : (widthField f).toNat = f - 1 := by
  simp only [widthField, BitVec.toNat_ofNat]
  omega

theorem formatC_widthField (op : BitVec 8) {f t : Nat} (p : Bool) (hf : f ≤ 8) (ht : t ≤ 8) :
    formatC op (widthField f) (widthField t) p =
      BitVec.ofNat 32 (2 ^ 24 * op.toNat + (2 ^ 8 * p.toNat + 2 ^ 4 * (t - 1) + (f - 1))) := by
  have := p.toNat_le
  rw [formatC, BitVec.or_assoc, BitVec.or_assoc, formatC_fields, widthField_toNat hf, widthField_toNat ht,
    formatN_or_ofNat op (by omega)]

/-! ### The word of each line in range (30_encoding.md R89) -/

theorem lineWords_of_command {l : AsmLine} {i : Instr} {w : Word} (hl : l.wellFormed = true)
    (hword : ∀ n, l ≠ .word n) (hi : expandLine l = [i]) (hw : encode i = w) : lineWords l = some [w] := by
  rw [lineWords_of_wellFormed hl hword, hi, List.map_singleton, hw]

theorem lineWords_symbol {v : Nat} (hv : v < 32) :
    lineWords (.csEnc v) = some [BitVec.ofNat 32 (0x10000000 + v)] ∧
      lineWords (.ckSym v) = some [BitVec.ofNat 32 (0x31000000 + v)] := by
  have hwf : decide (v < 32) = true := decide_eq_true hv
  exact ⟨lineWords_of_command hwf (by simp) rfl (formatS_symbolOf 0x10 hv),
    lineWords_of_command hwf (by simp) rfl (formatS_symbolOf 0x31 hv)⟩

theorem lineWords_byte {b : Nat} (hb : b < 256) :
    lineWords (.csDec b) = some [BitVec.ofNat 32 (0x11000000 + b)] ∧
      lineWords (.cvPush b) = some [BitVec.ofNat 32 (0x21000000 + b)] ∧
      lineWords (.ckHrpHi b) = some [BitVec.ofNat 32 (0x32000000 + b)] ∧
      lineWords (.ckHrpLo b) = some [BitVec.ofNat 32 (0x33000000 + b)] := by
  have hwf : decide (b < 256) = true := decide_eq_true hb
  exact ⟨lineWords_of_command hwf (by simp) rfl (formatB_byteOf 0x11 hb),
    lineWords_of_command hwf (by simp) rfl (formatB_byteOf 0x21 hb),
    lineWords_of_command hwf (by simp) rfl (formatB_byteOf 0x32 hb),
    lineWords_of_command hwf (by simp) rfl (formatB_byteOf 0x33 hb)⟩

theorem lineWords_ckFinish {k : Nat} (hk : k < 2) :
    lineWords (.ckFinish k) = some [BitVec.ofNat 32 (0x34000000 + k)] :=
  lineWords_of_command (decide_eq_true hk) (by simp) rfl (formatK_kindOf 0x34 hk)

theorem lineWords_cvInit {f t : Nat} (p : Bool) (hf : 1 ≤ f) (hf' : f ≤ 8) (ht : 1 ≤ t) (ht' : t ≤ 8) :
    lineWords (.cvInit f t p) =
      some [BitVec.ofNat 32 (0x20000000 + 2 ^ 8 * p.toNat + 2 ^ 4 * (t - 1) + (f - 1))] := by
  have hwf : (AsmLine.cvInit f t p).wellFormed = true := by simp [AsmLine.wellFormed, hf, hf', ht, ht']
  refine lineWords_of_command hwf (by simp) rfl ((formatC_widthField 0x20 p hf' ht').trans ?_)
  rw [← Nat.add_assoc, ← Nat.add_assoc]
  rfl

theorem lineWords_word {w : Nat} (hw : w < 2 ^ 32) : lineWords (.word w) = some [BitVec.ofNat 32 w] := by
  simp only [lineWords, AsmLine.wellFormed, hw, decide_true, if_true]

/-- Every command has a line. -/
theorem lineWords_lineOfCommand (i : Instr) : lineWords (lineOfCommand i) = some [encode i] :=
  lineWords_of_command (lineOfCommand_wellFormed i) (lineOfCommand_ne_word i) (expandLine_lineOfCommand i) rfl

/-! ### Operands out of range (30_encoding.md R89) -/

theorem lineWords_symbol_out {v : Nat} (hv : 32 ≤ v) : lineWords (.csEnc v) = none ∧ lineWords (.ckSym v) = none := by
  have hwf : decide (v < 32) = false := decide_eq_false (Nat.not_lt.2 hv)
  exact ⟨lineWords_of_not_wellFormed hwf, lineWords_of_not_wellFormed hwf⟩

theorem lineWords_byte_out {b : Nat} (hb : 256 ≤ b) :
    lineWords (.csDec b) = none ∧ lineWords (.cvPush b) = none ∧ lineWords (.ckHrpHi b) = none ∧
      lineWords (.ckHrpLo b) = none ∧ ∀ s, b ∈ s → lineWords (.ckHrp s) = none := by
  have hwf : decide (b < 256) = false := decide_eq_false (Nat.not_lt.2 hb)
  refine ⟨lineWords_of_not_wellFormed hwf, lineWords_of_not_wellFormed hwf, lineWords_of_not_wellFormed hwf,
    lineWords_of_not_wellFormed hwf, fun s hs => lineWords_of_not_wellFormed (List.all_eq_false.2 ⟨b, hs, ?_⟩)⟩
  simpa using hb

theorem lineWords_ckFinish_out {k : Nat} (hk : 2 ≤ k) : lineWords (.ckFinish k) = none :=
  lineWords_of_not_wellFormed (decide_eq_false (Nat.not_lt.2 hk))

theorem lineWords_cvInit_out {f t : Nat} (p : Bool) (h : f = 0 ∨ 8 < f ∨ t = 0 ∨ 8 < t) :
    lineWords (.cvInit f t p) = none := by
  apply lineWords_of_not_wellFormed
  rw [Bool.eq_false_iff]
  simp only [AsmLine.wellFormed, ne_eq, Bool.and_eq_true, decide_eq_true_eq]
  omega

theorem lineWords_word_out {w : Nat} (hw : 2 ^ 32 ≤ w) : lineWords (.word w) = none :=
  lineWords_of_not_wellFormed (decide_eq_false (Nat.not_lt.2 hw))

/-- Settles O48: a line in range is the encoding of its commands, or the word that `.word` names. -/
theorem assemblerYieldsOnlyCommands : Obligations.AssemblerYieldsOnlyCommands := by
  unfold Obligations.AssemblerYieldsOnlyCommands
  refine ⟨fun l hl => ?_, fun l ws hws hword w hw => ?_,
    fun i => ⟨lineOfCommand i, lineOfCommand_wellFormed i, lineWords_lineOfCommand i⟩, by decide,
    fun v => lineWords_symbol, fun b => lineWords_byte, fun k => lineWords_ckFinish, fun f t => lineWords_cvInit,
    fun w => lineWords_word, fun v => lineWords_symbol_out, fun b => lineWords_byte_out,
    fun k => lineWords_ckFinish_out, fun f t => lineWords_cvInit_out, fun w => lineWords_word_out,
    fun l ws => lineEvents_of_lineWords, by decide⟩
  · have hnone := lineWords_of_not_wellFormed hl
    exact ⟨hnone, by rw [lineEvents, hnone]⟩
  · rw [lineWords_encodes hws hword, List.mem_map] at hw
    obtain ⟨i, -, rfl⟩ := hw
    exact ⟨i, decode_encode i⟩

/-- Settles O49: the lines are fixed. -/
theorem pseudoInstructionWords : Obligations.PseudoInstructionWords := by
  unfold Obligations.PseudoInstructionWords
  decide

/-! ### What CK.HRP expands to (30_encoding.md R91, 43_checksum.md R155) -/

@[simp] theorem byteOf_toNat (b : Byte) : byteOf b.toNat = b := by
  simp [byteOf]

theorem lineWords_ckHrp (s : List Byte) :
    lineWords (.ckHrp (s.map BitVec.toNat)) = some ((expandHrpMacro s).map encode) := by
  have hwf : (AsmLine.ckHrp (s.map BitVec.toNat)).wellFormed = true := by
    simp only [AsmLine.wellFormed, List.all_map, List.all_eq_true]
    exact fun b _ => decide_eq_true b.isLt
  rw [lineWords_of_wellFormed hwf (by simp), expandLine, List.map_map]
  simp [Function.comp_def]

theorem encode_ckHrpHi (b : Byte) : encode (.ckHrpHi b) = 0x32000000#32 ||| b.setWidth 32 := by
  simp [encode, Instr.opcode, formatB, formatN]

theorem encode_ckHrpLo (b : Byte) : encode (.ckHrpLo b) = 0x33000000#32 ||| b.setWidth 32 := by
  simp [encode, Instr.opcode, formatB, formatN]

/-- The source's round, over the block's generator table (43_checksum.md R150). -/
theorem source_polymodStep_eq (c v : Nat) : Source.polymodStep c v =
    ([0, 1, 2, 3, 4] : List (Fin 5)).foldl
      (fun x i => if (c >>> 25 >>> i.val) &&& 1 = 1 then x ^^^ (Config.gen i).toNat else x)
      (((c &&& 0x1ffffff) <<< 5) ^^^ v) :=
  rfl

/-- The block's step on bits is the source's on numbers (43_checksum.md R150). -/
theorem polymodStep_toNat (c : Residue) (v : Symbol) :
    (polymodStep c v).toNat = Source.polymodStep c.toNat v.toNat := by
  have hshift : (((c &&& 0x1FFFFFF) <<< 5) ^^^ v.setWidth 30).toNat = ((c.toNat &&& 0x1ffffff) <<< 5) ^^^ v.toNat := by
    have hlow : c.toNat &&& 0x1ffffff < 2 ^ 25 := Nat.lt_succ_of_le Nat.and_le_right
    have hv : v.toNat < 2 ^ 30 := v.isLt.trans (by decide)
    have h5 : (c.toNat &&& 0x1ffffff) <<< 5 < 2 ^ 30 := by
      rw [Nat.shiftLeft_eq]
      omega
    rw [BitVec.toNat_xor, BitVec.toNat_shiftLeft, BitVec.toNat_and, BitVec.toNat_setWidth, Nat.mod_eq_of_lt hv]
    exact congrArg (· ^^^ v.toNat) (Nat.mod_eq_of_lt h5)
  have htop (i : Fin 5) : (c.extractLsb' 25 5).getLsbD i = true ↔ (c.toNat >>> 25 >>> i.val) &&& 1 = 1 := by
    rw [BitVec.getLsbD_extractLsb', BitVec.getLsbD, Nat.testBit_eq_decide_div_mod_eq, ← Nat.shiftRight_add,
      Nat.shiftRight_eq_div_pow, Nat.and_one_is_mod]
    simp
  rw [source_polymodStep_eq, ← hshift, polymodStep]
  refine (List.foldl_hom BitVec.toNat fun x i => ?_).symm
  simp only [htop]
  split_ifs
  · exact (BitVec.toNat_xor ..).symm
  · rfl

theorem foldl_polymodStep_toNat (vs : List Symbol) (c : Residue) :
    (vs.foldl polymodStep c).toNat = (vs.map BitVec.toNat).foldl Source.polymodStep c.toNat := by
  rw [List.foldl_map]
  exact (List.foldl_hom BitVec.toNat fun c v => (polymodStep_toNat c v).symm).symm

/-- The command feeds the symbol to CHK, and does nothing else. -/
def Feeds (i : Instr) (v : Symbol) : Prop := ∀ s, exec i s = feedSymbol v s

/-- Commands that each feed one symbol feed their symbols in order. -/
theorem runCommands_feeds {is : List Instr} {vs : List Symbol} (h : List.Forall₂ Feeds is vs) (s : State) :
    runCommands is (s.setErr 0) = some ((s.setChk (vs.foldl polymodStep s.chk)).setErr 0) := by
  induction h generalizing s with
  | nil => rfl
  | cons hfeeds _ ih =>
    rw [runCommands, hfeeds]
    exact ih (s.setChk _)

/-- A command overwrites the ERR before it, so only an empty list leaves it. -/
theorem runCommands_setErr {is : List Instr} (h : is ≠ []) (s : State) (e : BitVec 4) :
    runCommands is (s.setErr e) = runCommands is s := by
  cases is with
  | nil => exact absurd rfl h
  | cons i is => rw [runCommands, runCommands, exec_setErr]

/-- The symbols that CK.HRP feeds to CHK. -/
def hrpSymbols (s : List Byte) : List Symbol := s.map hrpHigh ++ [0] ++ s.map hrpLow

theorem expandHrpMacro_feeds (s : List Byte) : List.Forall₂ Feeds (expandHrpMacro s) (hrpSymbols s) := by
  have hhigh : List.Forall₂ Feeds (s.map .ckHrpHi) (s.map hrpHigh) := by
    simp only [List.forall₂_map_left_iff, List.forall₂_map_right_iff, List.forall₂_same]
    exact fun b _ _ => rfl
  have hlow : List.Forall₂ Feeds (s.map .ckHrpLo) (s.map hrpLow) := by
    simp only [List.forall₂_map_left_iff, List.forall₂_map_right_iff, List.forall₂_same]
    exact fun b _ _ => rfl
  have hsep : List.Forall₂ Feeds [.ckSym 0] [0] := .cons (fun _ => rfl) .nil
  exact List.rel_append (List.rel_append hhigh hsep) hlow

/-- The symbols CK.HRP feeds are the source's expansion of the bytes (43_checksum.md R155). -/
theorem hrpSymbols_toNat (s : List Byte) : (hrpSymbols s).map BitVec.toNat = Source.expandHrp (s.map BitVec.toNat) := by
  have hlow (n : Nat) : n &&& 31 = n % 32 := Nat.and_two_pow_sub_one_eq_mod n 5
  simp [hrpSymbols, Source.expandHrp, Function.comp_def, hrpHigh_toNat, hrpLow_toNat, Nat.shiftRight_eq_div_pow, hlow]

/-- Settles O50: the commands feed the symbols in order, and the block's step on them is the source's on the expansion. -/
theorem hrpMacroExpansion : Obligations.HrpMacroExpansion := by
  unfold Obligations.HrpMacroExpansion
  refine fun s => ⟨?_, ?_, fun st => ?_⟩
  · have hsep : encode (.ckSym 0#5) = 0x31000000#32 := by decide
    rw [lineWords_ckHrp, expandHrpMacro]
    simp [Function.comp_def, encode_ckHrpHi, encode_ckHrpLo, hsep]
  · simp only [expandHrpMacro, List.length_append, List.length_map, List.length_singleton]
    omega
  · intro c
    have hc : ((hrpSymbols s).foldl polymodStep st.chk).toNat = c := by
      rw [foldl_polymodStep_toNat, hrpSymbols_toNat]
    have hne : expandHrpMacro s ≠ [] := by simp [expandHrpMacro]
    rw [← runCommands_setErr hne st 0, runCommands_feeds (expandHrpMacro_feeds s), ← hc, BitVec.ofNat_toNat,
      BitVec.setWidth_eq]
    rfl

end Sys2Proof.Machine
end

section
/-!
Proofs of the statements about the charset commands (41_charset.md): what CS.ENC and CS.DEC leave in RESULT and ERR (R102,
R103), which bytes are members (R101), and the properties of R104. Facts about the alphabet's two maps come first.
-/

namespace Sys2Proof.Machine

/-! ### Case folding and the characters of a well-formed alphabet (41_charset.md R100, R101) -/

/-- Folding an uppercase letter does not overflow the byte. -/
theorem foldCase_toNat (b : Byte) :
    (foldCase b).toNat = if 0x41 ≤ b.toNat ∧ b.toNat ≤ 0x5A then b.toNat + 0x20 else b.toNat := by
  unfold foldCase
  split
  · next hupper =>
    bv_omega
  · rfl

/-- Every legal character is a digit or a lowercase letter. -/
theorem not_upper_of_legal : ∀ c ∈ Config.legalCharacters, ¬ (0x41 ≤ c.toNat ∧ c.toNat ≤ 0x5A) := by
  simp [Config.legalCharacters]

theorem foldCase_of_legal {c : Byte} (hc : c ∈ Config.legalCharacters) : foldCase c = c :=
  if_neg (not_upper_of_legal c hc)

theorem foldCase_mem_legal_iff (b : Byte) :
    foldCase b ∈ Config.legalCharacters ↔
      b ∈ Config.legalCharacters ∨ (0x41 ≤ b.toNat ∧ b.toNat ≤ 0x5A ∧ b + 0x20 ∈ Config.legalCharacters) := by
  by_cases hupper : 0x41 ≤ b.toNat ∧ b.toNat ≤ 0x5A
  · have hb : b ∉ Config.legalCharacters := fun hb => not_upper_of_legal b hb hupper
    simp [foldCase, hupper, hb]
  · have hright : ¬ (0x41 ≤ b.toNat ∧ b.toNat ≤ 0x5A ∧ b + 0x20 ∈ Config.legalCharacters) :=
      fun ⟨hlow, hhigh, _⟩ => hupper ⟨hlow, hhigh⟩
    rw [foldCase, if_neg hupper, or_iff_left hright]

section WellFormed
variable {rom : Vector Byte 32} (hrom : CharsetWellFormed rom)
include hrom

theorem charAt_mem_legal (v : Symbol) : charAt rom v ∈ Config.legalCharacters :=
  (exists_charAt_iff rom hrom _).1 ⟨v, rfl⟩

/-- The inverse map undoes the forward map. -/
theorem charIndex_charAt (v : Symbol) : charIndex rom (charAt rom v) = some v :=
  (charIndex_eq_some rom hrom _ v).2 (foldCase_of_legal (charAt_mem_legal hrom v)).symm

/-- Membership does not depend on the order of the alphabet. -/
theorem isMember_iff_foldCase_mem_legal (b : Byte) : isMember rom b = true ↔ foldCase b ∈ Config.legalCharacters :=
  (isMember_iff rom b).trans (exists_charAt_iff rom hrom _)

end WellFormed

/-- Settles O27: the members are the bytes that fold to a legal character, whatever the order, and so are counted once. -/
theorem fiftyFiveMembers : Obligations.FiftyFiveMembers := by
  unfold Obligations.FiftyFiveMembers
  intro rom hrom
  have hmember (b : Byte) : isMember rom b = decide (foldCase b ∈ Config.legalCharacters) := by
    rw [Bool.eq_iff_iff, decide_eq_true_iff, isMember_iff_foldCase_mem_legal hrom]
  constructor
  · intro b
    rw [isMember_iff_foldCase_mem_legal hrom, foldCase_mem_legal_iff]
  · simp only [hmember]
    decide

/-! ### What the two commands do (41_charset.md R102, R103) -/

theorem exec_csEnc (v : Symbol) (s : State) :
    exec (.csEnc v) s = .next ((s.setResult ((charAt s.charset v).setWidth 32)).setErr 0) := rfl

theorem exec_csDec_of_charIndex {b : Byte} {s : State} {i : Symbol} (h : charIndex s.charset b = some i) :
    exec (.csDec b) s = .next ((s.setResult (memberWord i)).setErr 0) :=
  (execCsDec_next b s _).2 (.inl ⟨i, h, rfl⟩)

theorem exec_csDec_of_not_member {b : Byte} {s : State} (h : charIndex s.charset b = none) :
    exec (.csDec b) s = .next ((s.setResult 0).setErr 4) :=
  (execCsDec_next b s _).2 (.inr ⟨h, rfl⟩)

/-- The membership bit stands above the index, so it adds 0x100. -/
theorem memberWord_eq_ofNat : ∀ i : Symbol, memberWord i = BitVec.ofNat 32 (0x100 + i.toNat) := by
  decide

theorem memberWord_index : ∀ i : Symbol, (memberWord i).extractLsb' 0 5 = i := by
  decide

/-- A word with the opcode of a row and one of the row's reserved bits set is illegal (30_encoding.md R86). -/
theorem decode_illegal_of_setsReserved {w : Word} {r : Row} (hr : r ∈ opcodeTable) (h : r.setsReserved w) :
    ∃ why, decode w = .illegal why :=
  ⟨.reservedBitSet, (decode_reservedBitSet_iff w).2 ⟨r, hr, h⟩⟩

theorem encode_csEnc (v : Symbol) : encode (.csEnc v) = 0x10000000#32 ||| v.setWidth 32 := by
  simp [encode, Instr.opcode, formatS, formatN]

theorem encode_csDec (b : Byte) : encode (.csDec b) = 0x11000000#32 ||| b.setWidth 32 := by
  simp [encode, Instr.opcode, formatB, formatN]

/-- Settles O25: the word is the encoder's, and a reserved bit of format S makes it illegal. -/
theorem csEncGivesTheCharacter : Obligations.CsEncGivesTheCharacter := by
  unfold Obligations.CsEncGivesTheCharacter
  refine ⟨fun v s => ⟨?_, ?_, fun hrom => charAt_mem_legal hrom v⟩, fun w hop hreserved => ?_⟩
  · rw [← encode_csEnc, decode_encode]
  · rw [BitVec.ofNat_toNat]
    exact exec_csEnc v s
  · exact decode_illegal_of_setsReserved (by simp [opcodeTable_eq])
      ((rowS_setsReserved w 0x10 .csEnc).2 ⟨hop, hreserved⟩)

/-- Settles O26: an entry equal to the folded byte is the one CS.DEC finds, and where there is none it finds none. -/
theorem csDecFindsTheIndex : Obligations.CsDecFindsTheIndex := by
  unfold Obligations.CsDecFindsTheIndex
  intro fold b s hrom
  have hentry (v : Symbol) : (s.charset[v.toNat]'v.isLt).toNat = fold b ↔ charAt s.charset v = foldCase b := by
    rw [← BitVec.toNat_inj, foldCase_toNat]
    rfl
  refine ⟨?_, fun v hv => ?_, fun hnone => ?_⟩
  · rw [← encode_csDec, decode_encode]
  · rw [hentry] at hv
    rw [← memberWord_eq_ofNat]
    exact exec_csDec_of_charIndex ((charIndex_eq_some s.charset hrom b v).2 hv)
  · exact exec_csDec_of_not_member ((charIndex_eq_none s.charset b).2 fun v hv => hnone v ((hentry v).2 hv))

/-! ### Round trips and the absence of side effects (41_charset.md R104) -/

/-- Settles O28: each command's operand is the field of RESULT that the other wrote. -/
theorem charsetRoundTrip : Obligations.CharsetRoundTrip := by
  unfold Obligations.CharsetRoundTrip
  intro s hrom
  constructor
  · intro v
    have hbyte : ((charAt s.charset v).setWidth 32).extractLsb' 0 8 = charAt s.charset v := by
      rw [BitVec.extractLsb'_setWidth_of_le (by decide), BitVec.extractLsb'_eq_self]
    refine ⟨_, _, exec_csEnc v s, exec_csDec_of_charIndex (i := v) ?_, memberWord_eq v, rfl⟩
    simpa [hbyte] using charIndex_charAt hrom v
  · intro b hb
    obtain ⟨i, hi⟩ := (isMember_iff s.charset b).1 hb
    have hindex := (charIndex_eq_some s.charset hrom b i).2 hi
    refine ⟨_, _, exec_csDec_of_charIndex hindex, exec_csEnc _ _, ?_⟩
    simp [memberWord_index, hi]

/-- A charset command writes RESULT and ERR only. -/
theorem exec_charset (i : Instr) (s : State) (hi : i.isCharset = true) :
    ∃ r e, exec i s = .next ((s.setResult r).setErr e) := by
  cases i with
  | csEnc v => exact ⟨_, _, exec_csEnc v s⟩
  | csDec b =>
    cases h : charIndex s.charset b with
    | some k => exact ⟨_, _, exec_csDec_of_charIndex h⟩
    | none => exact ⟨_, _, exec_csDec_of_not_member h⟩
  | _ => cases hi

/-- No command reads RESULT: whatever stood there, each leaves the same in every other register. -/
theorem exec_setResult (i : Instr) (s t : State) (r : Word) (h : exec i s = .next t) :
    ∃ r', exec i (s.setResult r) = .next (t.setResult r') := by
  cases i with
  | csDec b =>
    rcases (execCsDec_next b s t).1 h with ⟨_, hindex, rfl⟩ | ⟨hnone, rfl⟩
    · exact ⟨_, exec_csDec_of_charIndex hindex⟩
    · exact ⟨_, exec_csDec_of_not_member hnone⟩
  | cvPush b =>
    refine ⟨t.result, (execCvPush_next b _ _).2 ?_⟩
    rcases (execCvPush_next b s t).1 h with ⟨hc, rfl⟩ | ⟨hc, hb, rfl⟩ | ⟨hc, hb, rfl⟩
    · exact .inl ⟨hc, rfl⟩
    · exact .inr (.inl ⟨hc, hb, rfl⟩)
    · exact .inr (.inr ⟨hc, hb, rfl⟩)
  | cvFlush =>
    refine ⟨t.result, (execCvFlush_next _ _).2 ?_⟩
    rcases (execCvFlush_next s t).1 h with ⟨hc, rfl⟩ | ⟨hc, hp, rfl⟩ | ⟨hc, hp, hpad, rfl⟩ | ⟨hc, hp, hpad, rfl⟩
    · exact .inl ⟨hc, rfl⟩
    · exact .inr (.inl ⟨hc, hp, rfl⟩)
    · exact .inr (.inr (.inl ⟨hc, hp, hpad, rfl⟩))
    · exact .inr (.inr (.inr ⟨hc, hp, hpad, rfl⟩))
  | _ => cases h; exact ⟨_, rfl⟩

/-- Settles O29: a charset command writes RESULT and ERR only, and no command reads them. -/
theorem charsetCommandsCommute : Obligations.CharsetCommandsCommute := by
  unfold Obligations.CharsetCommandsCommute
  intro i j s hi _
  obtain ⟨r, e, hsi⟩ := exec_charset i s hi
  obtain ⟨sj, hsj⟩ := exec_answers_next j s
  obtain ⟨r', hsij⟩ := exec_setResult j s sj r hsj
  obtain ⟨_, _, hsji⟩ := exec_charset i sj hi
  rw [← exec_setErr j _ e] at hsij
  exact ⟨_, _, _, _, hsi, hsij, hsj, hsji, by simp [SameChecksum, SameConverter, SameOutside]⟩

end Sys2Proof.Machine
end

section
/-!
Proofs of the statements about the bit converter (42_bitconv.md): what CV.INIT, CV.PUSH and CV.FLUSH do in each of their
cases (R121 to R127), the simulation of the source's unbounded accumulator (R129), and whole streams (R128). What other
commands and illegal words do between the commands of a family is said for any family, in the part on interleaved streams.
-/

namespace Sys2Proof.Machine

/-! ### What the three commands do, case by case (42_bitconv.md R121 to R127) -/

theorem encode_cvInit (f t : BitVec 3) (p : Bool) : encode (.cvInit f t p) =
    0x20000000#32 ||| BitVec.ofNat 32 (2 ^ 8 * p.toNat + 2 ^ 4 * t.toNat + f.toNat) := by
  have hop : formatN 0x20 = 0x20000000#32 := by decide
  rw [encode, Instr.opcode, formatC, BitVec.or_assoc, BitVec.or_assoc, formatC_fields, hop]

theorem exec_cvInit (f t : BitVec 3) (p : Bool) (s : State) :
    exec (.cvInit f t p) s =
      .next ((((s.setConfig f t p).setBuffer 0 0).setConverterError 0 false false).setErr 0) := rfl

/-- Settles O30: the word is the encoder's, and CV.INIT has one outcome. -/
theorem cvInitStartsAStream : Obligations.CvInitStartsAStream := by
  unfold Obligations.CvInitStartsAStream
  refine fun f t p s => ⟨?_, exec_cvInit f t p s⟩
  rw [← encode_cvInit, decode_encode]

theorem exec_cvPush_latched (b : Byte) {s : State} (hc : s.cverr ≠ 0) :
    exec (.cvPush b) s = .next ((s.setResult 0).setErr 5) :=
  (execCvPush_next b s _).2 (.inl ⟨hc, rfl⟩)

theorem exec_cvPush_rejected {b : Byte} {s : State} (hc : s.cverr = 0) (hb : 2 ^ s.fromBits - 1 < b.toNat) :
    exec (.cvPush b) s = .next (((s.setConverterError 1 s.padx s.padnz).setResult 0).setErr 2) :=
  (execCvPush_next b s _).2 (.inr (.inl ⟨hc, hb, rfl⟩))

theorem exec_cvPush_accepted {b : Byte} {s : State} (hc : s.cverr = 0) (hb : b.toNat ≤ 2 ^ s.fromBits - 1) :
    exec (.cvPush b) s = .next ((pushAccepted b s).setErr 0) :=
  (execCvPush_next b s _).2 (.inr (.inr ⟨hc, hb, rfl⟩))

theorem exec_cvFlush_latched {s : State} (hc : s.cverr ≠ 0) :
    exec .cvFlush s = .next ((s.setResult 0).setErr 5) :=
  (execCvFlush_next s _).2 (.inl ⟨hc, rfl⟩)

theorem exec_cvFlush_padded {s : State} (hc : s.cverr = 0) (hp : s.cfgP = true) :
    exec .cvFlush s = .next (((s.setResult (padResult s)).setBuffer 0 0).setErr 0) :=
  (execCvFlush_next s _).2 (.inr (.inl ⟨hc, hp, rfl⟩))

/-- `PadInvalid()` (42_bitconv.md R125): too many bits are left, or one of them is set. -/
theorem State.padInvalid_iff (s : State) : s.padInvalid = true ↔ s.fromBits ≤ s.nbits.toNat ∨ s.acc ≠ 0 := by
  simp [State.padInvalid, State.tooManyLeft, State.nonZeroLeft]

theorem exec_cvFlush_invalidPadding {s : State} (hc : s.cverr = 0) (hp : s.cfgP = false)
    (hpad : s.fromBits ≤ s.nbits.toNat ∨ s.acc ≠ 0) :
    exec .cvFlush s = .next (((s.setConverterError 2 s.tooManyLeft s.nonZeroLeft).setResult 0).setErr 3) :=
  (execCvFlush_next s _).2 (.inr (.inr (.inl ⟨hc, hp, s.padInvalid_iff.2 hpad, rfl⟩)))

theorem exec_cvFlush_dropped {s : State} (hc : s.cverr = 0) (hp : s.cfgP = false)
    (hn : s.nbits.toNat < s.fromBits) (ha : s.acc = 0) :
    exec .cvFlush s = .next (((s.setResult 0).setBuffer 0 0).setErr 0) := by
  have hpad : s.padInvalid = false := by
    rw [← Bool.not_eq_true, s.padInvalid_iff]
    exact not_or.2 ⟨Nat.not_le.2 hn, not_not.2 ha⟩
  exact (execCvFlush_next s _).2 (.inr (.inr (.inr ⟨hc, hp, hpad, rfl⟩)))

/-- Settles O32: the second of CV.PUSH's three cases. -/
theorem cvPushRejectsAnOutOfRangeValue : Obligations.CvPushRejectsAnOutOfRangeValue := by
  unfold Obligations.CvPushRejectsAnOutOfRangeValue
  exact fun b s hc hb => exec_cvPush_rejected hc hb

/-- Settles O35: the two cases of CV.FLUSH without padding. -/
theorem cvFlushChecksThePadding : Obligations.CvFlushChecksThePadding := by
  unfold Obligations.CvFlushChecksThePadding
  refine fun s hc hp => ⟨exec_cvFlush_dropped hc hp, fun hpad => ?_⟩
  have hnz : s.nonZeroLeft = decide (s.acc ≠ 0) := by
    rw [State.nonZeroLeft, bne, beq_eq_decide, decide_not]
  rw [exec_cvFlush_invalidPadding hc hp hpad, hnz]
  rfl

/-- A command outside the converter family, RST excepted, leaves the converter's registers (70_reset_and_hazards.md R236). -/
theorem exec_keeps_converter {i : Instr} {s t : State} (hi : i.isConverter = false) (hr : i ≠ .rst)
    (h : exec i s = .next t) : SameConverter s t := by
  cases i with
  | rst => exact absurd rfl hr
  | csDec b => rcases (execCsDec_next b s t).1 h with ⟨_, _, rfl⟩ | ⟨_, rfl⟩ <;> simp [SameConverter]
  | cvInit f u p => cases hi
  | cvPush b => cases hi
  | cvFlush => cases hi
  | _ => cases h; simp [SameConverter]

/-- Settles O33: CV.PUSH and CV.FLUSH abort, CV.INIT and RST clear, and no other command writes the converter's registers. -/
theorem latchedErrorAborts : Obligations.LatchedErrorAborts := by
  unfold Obligations.LatchedErrorAborts
  refine ⟨fun b s hc => exec_cvPush_latched b hc, fun s hc => exec_cvFlush_latched hc,
    fun f t p s => ⟨_, exec_cvInit f t p s, rfl⟩, fun s => ⟨_, rfl, s.resetRegisters_cverr⟩, fun i s t hc h => ?_⟩
  cases hi : i.isConverter with
  | false =>
    rcases eq_or_ne i .rst with hr | hr
    · exact .inl hr
    · obtain ⟨hacc, hnbits, -, -, -, hcverr, hpadx, hpadnz⟩ := exec_keeps_converter hi hr h
      exact .inr (.inr ⟨hcverr.symm, hpadx.symm, hpadnz.symm, hacc.symm, hnbits.symm⟩)
  | true =>
    cases i with
    | cvInit f u p => exact .inr (.inl ⟨f, u, p, rfl⟩)
    | cvPush b =>
      rw [execCvPush_latched b s t hc h]
      simp
    | cvFlush =>
      rw [execCvFlush_latched s t hc h]
      simp
    | _ => cases hi

/-! ### The pad group (42_bitconv.md R124) -/

theorem State.toBits_pos (s : State) : 0 < s.toBits := Nat.succ_pos _

theorem State.toBits_le (s : State) : s.toBits ≤ 8 := s.cfgT.isLt

/-- The pad group has `toBits` bits, whatever is buffered. -/
theorem padGroup_lt (s : State) : padGroup s < 2 ^ s.toBits := by
  rw [padGroup, lowMask, Nat.and_two_pow_sub_one_eq_mod]
  exact Nat.mod_lt _ (Nat.two_pow_pos _)

theorem padGroup_lt_out (s : State) : padGroup s < 2 ^ 15 :=
  (padGroup_lt s).trans_le (Nat.pow_le_pow_right (by decide) (s.toBits_le.trans (by decide)))

theorem padGroup_of_le {s : State} (h : s.nbits.toNat ≤ s.toBits) :
    padGroup s = s.acc.toNat * 2 ^ (s.toBits - s.nbits.toNat) % 2 ^ s.toBits := by
  rw [padGroup, if_pos h, lowMask, Nat.and_two_pow_sub_one_eq_mod, Nat.shiftLeft_eq]

theorem padResult_of_empty {s : State} (h : s.nbits.toNat = 0) : padResult s = 0 := by
  simp [padResult, h]

theorem padResult_of_nonempty {s : State} (h : 0 < s.nbits.toNat) : padResult s = groupsWord 1 (padGroup s) :=
  if_pos h

theorem padResult_toNat {s : State} (h : 0 < s.nbits.toNat) : (padResult s).toNat = 2 ^ 16 + padGroup s := by
  rw [padResult_of_nonempty h, groupsWord_toNat 1 _ (by decide) (padGroup_lt_out s), Nat.mul_one]

/-- Settles O34: the padded case of CV.FLUSH, with COUNT and the group as the two halves of RESULT. -/
theorem cvFlushPadsTheLeftoverBits : Obligations.CvFlushPadsTheLeftoverBits := by
  unfold Obligations.CvFlushPadsTheLeftoverBits
  intro s hc hp toBits
  refine ⟨padResult s, exec_cvFlush_padded hc hp, fun h => ?_, fun h => ?_, fun h hle => ?_⟩
  · exact padResult_of_empty (by rw [h]; rfl)
  · have hgroup := padGroup_lt_out s
    rw [padResult_toNat h]
    refine ⟨by omega, ?_⟩
    rw [Nat.add_mod_left, Nat.mod_eq_of_lt (by omega)]
    exact padGroup_lt s
  · rw [padResult_toNat h, padGroup_of_le hle]
    rfl

/-! ### The groups of an accepted input (42_bitconv.md R122, R123, R129) -/

/-- Bits `k` to `k + w - 1` of a number are those of its low `m` bits, where `k + w ≤ m`. -/
theorem bits_of_low_bits (x : Nat) {m k w : Nat} (h : k + w ≤ m) :
    x % 2 ^ m / 2 ^ k % 2 ^ w = x / 2 ^ k % 2 ^ w := by
  obtain ⟨j, rfl⟩ := Nat.exists_eq_add_of_le h
  rw [Nat.add_assoc, Nat.pow_add, Nat.mod_mul_right_div_self,
    Nat.mod_mod_of_dvd _ (Nat.pow_dvd_pow 2 (Nat.le_add_right w j))]

/-- RESULT for the whole groups among the low `n` bits of an accumulator, first group in its most significant bits
(42_bitconv.md R122, R123). -/
def emittedWord (toBits A n : Nat) : Word :=
  groupsWord (n / toBits) (A / 2 ^ (n % toBits) % 2 ^ (n / toBits * toBits))

section EmittedWord

variable {toBits n : Nat} (A : Nat)

theorem emitted_count_lt (hn : n ≤ 15) : n / toBits < 16 :=
  (Nat.div_le_self n toBits).trans_lt (Nat.lt_succ_of_le hn)

theorem emitted_out_lt (hn : n ≤ 15) : A / 2 ^ (n % toBits) % 2 ^ (n / toBits * toBits) < 2 ^ 15 :=
  (Nat.mod_lt _ (Nat.two_pow_pos _)).trans_le
    (Nat.pow_le_pow_right (by decide) ((Nat.div_mul_le_self n toBits).trans hn))

/-- RESULT as a number: the source's count of groups, and the bits it emits (42_bitconv.md R123). -/
theorem emittedWord_toNat (ht : 0 < toBits) (hn : n ≤ 15) : (emittedWord toBits A n).toNat =
    2 ^ 16 * (Source.drain toBits A n n).1.length +
      A / 2 ^ (Source.drain toBits A n n).2 % 2 ^ ((Source.drain toBits A n n).1.length * toBits) := by
  rw [Source.drain_snd toBits A ht n n le_rfl, Source.drain_length toBits A ht n n le_rfl]
  exact groupsWord_toNat _ _ (emitted_count_lt hn) (emitted_out_lt A hn)

/-- A host takes the groups of the source's loop out of RESULT, in order (42_bitconv.md R123). -/
theorem unpack_emittedWord (ht : 0 < toBits) (hn : n ≤ 15) :
    Source.unpack toBits (emittedWord toBits A n) = (Source.drain toBits A n n).1 := by
  rw [emittedWord, unpack_groupsWord _ _ _ (emitted_count_lt hn) (emitted_out_lt A hn),
    Source.drain_fst toBits A ht n n le_rfl]
  refine List.map_congr_left fun j hj => ?_
  obtain ⟨i, hi⟩ : ∃ i, n / toBits = j + 1 + i :=
    Nat.exists_eq_add_of_le (Nat.succ_le_of_lt (List.mem_range.1 hj))
  have hcount : n / toBits * toBits = (j + 1) * toBits + toBits * i := by
    rw [hi, Nat.add_mul, Nat.mul_comm i]
  have hgroup : toBits * i + toBits ≤ n / toBits * toBits := by
    have hone : toBits ≤ (j + 1) * toBits := Nat.le_mul_of_pos_left toBits j.succ_pos
    omega
  have hshift : n - (j + 1) * toBits = n % toBits + toBits * i := by
    have hsplit := Nat.mod_add_div' n toBits
    omega
  rw [Nat.and_two_pow_sub_one_eq_mod, Nat.and_two_pow_sub_one_eq_mod, Nat.shiftRight_eq_div_pow,
    Nat.shiftRight_eq_div_pow, show n / toBits - 1 - j = i by omega, bits_of_low_bits _ hgroup,
    Nat.div_div_eq_div_mul, ← Nat.pow_add, hshift]

end EmittedWord

/-- RESULT after an accepted input, over ACC followed by the input (42_bitconv.md R122). -/
theorem pushAccepted_result (b : Byte) (s : State) : (pushAccepted b s).result =
    emittedWord s.toBits (s.acc.toNat <<< s.fromBits ||| b.toNat) (s.nbits.toNat + s.fromBits) := by
  simp only [pushAccepted, State.setResult_result, emittedWord, lowMask, Nat.mul_comm _ s.toBits,
    ← Nat.mod_eq_sub_mul_div, Nat.and_two_pow_sub_one_eq_mod, Nat.shiftRight_eq_div_pow]

/-- RESULT shows no bit of the accumulator above the buffered ones. -/
theorem emittedWord_low_bits (toBits A n : Nat) : emittedWord toBits (A % 2 ^ n) n = emittedWord toBits A n := by
  have hbits : n % toBits + n / toBits * toBits ≤ n := by rw [Nat.mul_comm, Nat.mod_add_div]
  rw [emittedWord, emittedWord, bits_of_low_bits A hbits]

/-- The simulation relation of 42_bitconv.md R129: the source has `n` bits buffered, fewer than a group, and ACC is its
unbounded accumulator `A` reduced to them. -/
structure Buffers (s : State) (A n : Nat) : Prop where
  nbits_eq : s.nbits.toNat = n
  le_cfgT : n ≤ s.cfgT.toNat
  acc_eq : s.acc.toNat = A % 2 ^ n

section Buffers

variable {s : State} {A n : Nat} (h : Buffers s A n)
include h

theorem Buffers.setErr (e : BitVec 4) : Buffers (s.setErr e) A n := ⟨h.nbits_eq, h.le_cfgT, h.acc_eq⟩

theorem Buffers.le_toBits : n ≤ s.toBits := h.le_cfgT.trans (Nat.le_succ _)

/-- At most 15 bits are buffered with a new input (42_bitconv.md R122). -/
theorem Buffers.add_fromBits_le : n + s.fromBits ≤ 15 := by
  have hle := buffered_le s (h.nbits_eq.trans_le h.le_cfgT)
  rwa [h.nbits_eq] at hle

variable {b : Byte} (hb : b.toNat ≤ 2 ^ s.fromBits - 1)
include hb

/-- ACC followed by an input is the source's accumulator followed by it, reduced to the buffered bits. -/
theorem Buffers.acc_shiftLeft_or :
    s.acc.toNat <<< s.fromBits ||| b.toNat = (A <<< s.fromBits ||| b.toNat) % 2 ^ (n + s.fromBits) := by
  have hb' : b.toNat < 2 ^ (n + s.fromBits) :=
    (Nat.lt_of_le_pred (Nat.two_pow_pos _) hb).trans_le (Nat.pow_le_pow_right (by decide) (Nat.le_add_left _ _))
  rw [Nat.or_mod_two_pow, Nat.mod_eq_of_lt hb', h.acc_eq, Nat.shiftLeft_eq, Nat.shiftLeft_eq, Nat.pow_add,
    Nat.mul_mod_mul_right]

/-- The groups in RESULT are those of the source's whole accumulator. -/
theorem Buffers.pushAccepted_result :
    (pushAccepted b s).result = emittedWord s.toBits (A <<< s.fromBits ||| b.toNat) (n + s.fromBits) := by
  rw [Machine.pushAccepted_result, h.nbits_eq, h.acc_shiftLeft_or hb, emittedWord_low_bits]

/-- A host takes exactly the groups the source emits out of RESULT. -/
theorem Buffers.unpack_pushAccepted : Source.unpack s.toBits (pushAccepted b s).result =
    (Source.drain s.toBits (A <<< s.fromBits ||| b.toNat) (n + s.fromBits) (n + s.fromBits)).1 := by
  rw [h.pushAccepted_result hb, unpack_emittedWord _ s.toBits_pos h.add_fromBits_le]

/-- An accepted input keeps the relation (42_bitconv.md R129). -/
theorem Buffers.pushAccepted : Buffers (pushAccepted b s) (A <<< s.fromBits ||| b.toNat)
    (Source.drain s.toBits (A <<< s.fromBits ||| b.toNat) (n + s.fromBits) (n + s.fromBits)).2 := by
  rw [Source.drain_snd _ _ s.toBits_pos _ _ le_rfl]
  refine ⟨?_, Nat.le_of_lt_succ (Nat.mod_lt _ s.toBits_pos), ?_⟩
  · rw [pushAccepted_nbits_toNat, h.nbits_eq]
  · rw [pushAccepted_acc_toNat, h.nbits_eq, h.acc_shiftLeft_or hb,
      Nat.mod_mod_of_dvd _ (Nat.pow_dvd_pow 2 (Nat.mod_le _ _))]

end Buffers

/-- Settles O36: the relation is kept, and RESULT holds the source's groups. -/
theorem accumulatorSimulatesTheSource : Obligations.AccumulatorSimulatesTheSource := by
  unfold Obligations.AccumulatorSimulatesTheSource
  intro b s A hn hacc hc hb A' n d
  have hbuf : Buffers s A s.nbits.toNat := ⟨rfl, hn, hacc⟩
  obtain ⟨hnbits, -, hacc'⟩ := hbuf.pushAccepted hb
  refine ⟨_, exec_cvPush_accepted hc hb, hnbits, hacc', ?_, hbuf.unpack_pushAccepted hb⟩
  rw [State.setErr_result, hbuf.pushAccepted_result hb]
  exact emittedWord_toNat _ s.toBits_pos hbuf.add_fromBits_le

/-- Settles O31: the simulation, from a source whose accumulator holds the buffered bits and no others. -/
theorem cvPushEmitsTheSourcesGroups : Obligations.CvPushEmitsTheSourcesGroups := by
  unfold Obligations.CvPushEmitsTheSourcesGroups
  intro b s hs hc hb fromBits toBits a n d
  obtain ⟨-, hn, hacc, -⟩ := hs
  have ha : s.acc.toNat <<< (s.cfgF.toNat + 1) ||| b.toNat = a := by
    rw [← Nat.shiftLeft_add_eq_or_of_lt (Nat.lt_of_le_pred (Nat.two_pow_pos _) hb), Nat.shiftLeft_eq]
  obtain ⟨t, ht, hnbits, hacc', hresult, hunpack⟩ : ∃ t, exec (.cvPush b) s = .next t ∧ t.nbits.toNat = d.2 ∧
      t.acc.toNat = a % 2 ^ d.2 ∧
      t.result.toNat = 2 ^ 16 * d.1.length + a / 2 ^ d.2 % 2 ^ (d.1.length * toBits) ∧
      Source.unpack toBits t.result = d.1 := by
    simpa only [ha] using accumulatorSimulatesTheSource b s s.acc.toNat hn (Nat.mod_eq_of_lt hacc).symm hc hb
  have hlength : d.1.length * toBits ≤ 15 := by
    rw [Source.drain_length toBits a s.toBits_pos n n le_rfl]
    exact (Nat.div_mul_le_self n toBits).trans (buffered_le s hn)
  have hout : a / 2 ^ d.2 % 2 ^ (d.1.length * toBits) < 2 ^ 15 :=
    (Nat.mod_lt _ (Nat.two_pow_pos _)).trans_le (Nat.pow_le_pow_right (by decide) hlength)
  refine ⟨t, ht, ?_, hnbits, hacc', ?_, ?_, hlength, hresult, hunpack⟩
  · rw [exec_cvPush_accepted hc hb] at ht
    cases ht
    rfl
  · rw [hresult]
    omega
  · rw [BitVec.getLsbD, hresult, Nat.testBit_eq_decide_div_mod_eq, decide_eq_false_iff_not]
    omega

/-! ### The commands of one family in a list of words (70_reset_and_hazards.md R236) -/

/-- The commands run in order, and between any two of them, before the first and after the last the state may change as
far as `same` allows. `outs` are the states right after the commands, and `t` is the state at the end. -/
inductive Interleaved (same : State → State → Prop) : List Instr → State → List State → State → Prop
  | done {s t : State} (h : same s t) : Interleaved same [] s [] t
  | command {i : Instr} {is : List Instr} {s u v t : State} {outs : List State} (hs : same s u)
      (hi : exec i u = .next v) (h : Interleaved same is v outs t) : Interleaved same (i :: is) s (v :: outs) t

/-- `same` says that two states agree on registers which only the family's commands and RST write, ERR not among them. -/
structure OwnRegisters (family : Instr → Bool) (same : State → State → Prop) : Prop where
  refl (s : State) : same s s
  trans {s t u : State} (hst : same s t) (htu : same t u) : same s u
  exec_other {i : Instr} {s t : State} (hi : family i = false) (hr : i ≠ .rst) (h : exec i s = .next t) : same s t
  setErr (s : State) (e : BitVec 4) : same s (s.setErr e)

theorem familyWord_eq_some_iff {family : Instr → Bool} {w : Word} {i : Instr} :
    familyWord family w = some i ↔ decode w = .command i ∧ family i = true := by
  unfold familyWord
  cases decode w with
  | illegal why => simp
  | command j =>
    simp only [Option.ite_none_right_eq_some, Option.some.injEq, Decoded.command.injEq]
    exact ⟨fun ⟨hj, e⟩ => ⟨e, e ▸ hj⟩, fun ⟨e, hi⟩ => ⟨e ▸ hi, e⟩⟩

section OwnRegisters

variable {family : Instr → Bool} {same : State → State → Prop} (hown : OwnRegisters family same)
include hown

theorem Interleaved.of_same {is : List Instr} {s s' t : State} {outs : List State} (hs : same s s')
    (h : Interleaved same is s' outs t) : Interleaved same is s outs t := by
  cases h with
  | done h => exact .done (hown.trans hs h)
  | command hs' hi h => exact .command (hown.trans hs hs') hi h

/-- A word that is no command of the family and no RST leaves the family's registers. -/
theorem execute_same_of_other {w : Word} {s t : State} (hw : familyWord family w = none)
    (hr : decode w ≠ .command .rst) (h : execute w s = .next t) : same s t := by
  rcases (execute_next w s t).1 h with ⟨i, hd, hi⟩ | ⟨_, _, rfl⟩
  · have hfamily : family i = false := by
      by_contra hf
      have hsome := familyWord_eq_some_iff.2 ⟨hd, Bool.eq_true_of_not_eq_false hf⟩
      rw [hw] at hsome
      cases hsome
    exact hown.exec_other hfamily (fun e => hr (e ▸ hd)) hi
  · exact hown.setErr s 1

/-- A list of words without RST runs the family's commands in it, and between them leaves the family's registers. -/
theorem statesAfter_interleaved {ws : List Word} (hr : ∀ w ∈ ws, decode w ≠ .command .rst) (s : State) :
    ∃ ts, statesAfter ws s = some ts ∧
      Interleaved same (ws.filterMap (familyWord family)) s (familyStates family ws ts) (ts.getLast?.getD s) := by
  induction ws generalizing s with
  | nil => exact ⟨[], rfl, .done (hown.refl s)⟩
  | cons w ws ih =>
    obtain ⟨hrw, hrws⟩ := List.forall_mem_cons.1 hr
    obtain ⟨t, ht⟩ := execute_answers_next w s
    obtain ⟨ts, hts, hrun⟩ := ih hrws t
    refine ⟨t :: ts, by simp [statesAfter, ht, hts], ?_⟩
    rw [List.getLast?_cons, Option.getD_some]
    cases hw : familyWord family w with
    | none => simpa [familyStates, hw] using hrun.of_same hown (execute_same_of_other hown hw hrw ht)
    | some i =>
      obtain ⟨hd, -⟩ := familyWord_eq_some_iff.1 hw
      rw [execute_of_command hd] at ht
      simpa [familyStates, hw] using Interleaved.command (hown.refl s) ht hrun

end OwnRegisters

/-! ### Converter streams (42_bitconv.md R128) -/

theorem converter_ownRegisters : OwnRegisters Instr.isConverter SameConverter where
  refl s := by simp [SameConverter]
  trans hst htu := by simp_all [SameConverter]
  exec_other hi hr h := exec_keeps_converter hi hr h
  setErr s e := by simp [SameConverter]

theorem unpack_zero (toBits : Nat) : Source.unpack toBits 0#32 = [] := rfl

/-- A state in the middle of a stream: the widths and the padding of its CV.INIT, no latched error, and the source's
buffered bits. -/
structure Converting (fromBits toBits : Nat) (pad : Bool) (s : State) (A n : Nat) : Prop where
  fromBits_eq : s.fromBits = fromBits
  toBits_eq : s.toBits = toBits
  cfgP_eq : s.cfgP = pad
  cverr_eq : s.cverr = 0
  buffers : Buffers s A n

theorem Converting.of_same {fromBits toBits : Nat} {pad : Bool} {s s' : State} {A n : Nat}
    (h : Converting fromBits toBits pad s A n) (hs : SameConverter s s') : Converting fromBits toBits pad s' A n := by
  obtain ⟨rfl, rfl, rfl, hc, hbuf⟩ := h
  obtain ⟨hacc, hnbits, hf, hu, hp, hcverr, -, -⟩ := hs
  exact ⟨by rw [State.fromBits, State.fromBits, hf], by rw [State.toBits, State.toBits, hu], hp.symm, hcverr ▸ hc,
    ⟨hnbits ▸ hbuf.nbits_eq, hu ▸ hbuf.le_cfgT, hacc ▸ hbuf.acc_eq⟩⟩

/-- CV.INIT starts a stream with an empty buffer (42_bitconv.md R121). -/
theorem converting_of_cvInit {f u : BitVec 3} {p : Bool} {s t : State} (h : exec (.cvInit f u p) s = .next t) :
    t.err = 0 ∧ Converting (f.toNat + 1) (u.toNat + 1) p t 0 0 := by
  rw [exec_cvInit] at h
  cases h
  exact ⟨rfl, rfl, rfl, rfl, rfl, ⟨rfl, Nat.zero_le _, rfl⟩⟩

/-- An accepted CV.PUSH is a round of the source's loop (42_bitconv.md R122, R129). -/
theorem Converting.cvPush {fromBits toBits : Nat} {pad : Bool} {s t : State} {A n : Nat} {b : Byte}
    (h : Converting fromBits toBits pad s A n) (hb : b.toNat ≤ 2 ^ fromBits - 1) (hi : exec (.cvPush b) s = .next t) :
    let d := Source.drain toBits (A <<< fromBits ||| b.toNat) (n + fromBits) (n + fromBits)
    t.err = 0 ∧ Source.unpack toBits t.result = d.1 ∧
      Converting fromBits toBits pad t (A <<< fromBits ||| b.toNat) d.2 := by
  obtain ⟨rfl, rfl, hp, hc, hbuf⟩ := h
  rw [exec_cvPush_accepted hc hb] at hi
  cases hi
  have hbuf' := (hbuf.pushAccepted hb).setErr 0
  exact ⟨rfl, hbuf.unpack_pushAccepted hb, ⟨rfl, rfl, hp, hc, hbuf'⟩⟩

/-- What a host sees of a CV.INIT stream of which `len` CV.PUSH and the CV.FLUSH are left, where the source has read
`k` inputs and emitted `out`: `outs` are the states right after those commands, and `t` is the state at the end
(42_bitconv.md R128). -/
def Reports (toBits len k : Nat) (out : List Nat) (outs : List State) (t : State) : Source.Conversion → Prop
  | .groups gs =>
    outs.map State.err = List.replicate (len + 1) 0 ∧
      out ++ outs.flatMap (fun v => Source.unpack toBits v.result) = gs
  | .inputRange i =>
    ∃ j, i = k + j ∧ outs.map State.err = List.replicate j 0 ++ 2 :: List.replicate (len - j) 5 ∧ t.cverr = 1
  | .invalidPadding => outs.map State.err = List.replicate len 0 ++ [3] ∧ t.cverr = 2

/-- An accepted input before such a stream. -/
theorem Reports.cons {toBits len k : Nat} {out : List Nat} {v t : State} {outs : List State} {c : Source.Conversion}
    (hv : v.err = 0) (h : Reports toBits len (k + 1) (out ++ Source.unpack toBits v.result) outs t c) :
    Reports toBits (len + 1) k out (v :: outs) t c := by
  cases c with
  | groups gs =>
    obtain ⟨herrs, hgs⟩ := h
    exact ⟨by rw [List.map_cons, hv, herrs, ← List.replicate_succ], by rwa [List.flatMap_cons, ← List.append_assoc]⟩
  | inputRange i =>
    obtain ⟨j, hi, herrs, hc⟩ := h
    exact ⟨j + 1, by omega, by rw [List.map_cons, hv, herrs, List.replicate_succ, Nat.add_sub_add_right,
      List.cons_append], hc⟩
  | invalidPadding =>
    obtain ⟨herrs, hc⟩ := h
    exact ⟨by rw [List.map_cons, hv, herrs, List.replicate_succ, List.cons_append], hc⟩

/-- On a latched error the rest of a stream only reports it (42_bitconv.md R127). -/
theorem Interleaved.latched {is : List Instr} {s t : State} {outs : List State}
    (h : Interleaved SameConverter is s outs t) (hc : s.cverr ≠ 0)
    (his : ∀ i ∈ is, (∃ b, i = .cvPush b) ∨ i = .cvFlush) :
    outs.map State.err = List.replicate is.length 5 ∧ t.cverr = s.cverr := by
  induction h with
  | done hs =>
    obtain ⟨-, -, -, -, -, hcverr, -, -⟩ := hs
    exact ⟨rfl, hcverr.symm⟩
  | @command i is s s' v t outs hs hi _ ih =>
    obtain ⟨-, -, -, -, -, hcverr, -, -⟩ := hs
    have hc' : s'.cverr ≠ 0 := hcverr ▸ hc
    obtain ⟨hi', his'⟩ := List.forall_mem_cons.1 his
    have hv : v = (s'.setResult 0).setErr 5 := by
      rcases hi' with ⟨b, rfl⟩ | rfl
      · exact execCvPush_latched b s' v hc' hi
      · exact execCvFlush_latched s' v hc' hi
    subst hv
    obtain ⟨herrs, ht⟩ := ih hc' his'
    exact ⟨by rw [List.map_cons, herrs, List.length_cons, List.replicate_succ, State.setErr_err], ht.trans hcverr.symm⟩

section Flush

variable {s : State} {A n : Nat} (h : Buffers s A n)
include h

/-- The group the source fills up at its end is made of the bits in ACC (42_bitconv.md R124, R129). -/
theorem Buffers.sourceGroup_eq :
    (A <<< (s.toBits - n)) &&& (2 ^ s.toBits - 1) = s.acc.toNat * 2 ^ (s.toBits - n) := by
  have hpow : 2 ^ s.toBits = 2 ^ n * 2 ^ (s.toBits - n) := by
    rw [← Nat.pow_add, Nat.add_sub_of_le h.le_toBits]
  rw [Nat.and_two_pow_sub_one_eq_mod, Nat.shiftLeft_eq, hpow, Nat.mul_mod_mul_right, h.acc_eq]

/-- CV.FLUSH's pad group is the source's. -/
theorem Buffers.padGroup_eq : padGroup s = (A <<< (s.toBits - n)) &&& (2 ^ s.toBits - 1) := by
  have hle : s.nbits.toNat ≤ s.toBits := h.nbits_eq.trans_le h.le_toBits
  have hmod := congrArg (· % 2 ^ s.toBits) h.sourceGroup_eq
  rw [padGroup_of_le hle, h.nbits_eq]
  simpa only [Nat.and_two_pow_sub_one_eq_mod, Nat.mod_mod] using hmod.symm

/-- The source's group is zero exactly where ACC is. -/
theorem Buffers.sourceGroup_eq_zero_iff : (A <<< (s.toBits - n)) &&& (2 ^ s.toBits - 1) = 0 ↔ s.acc = 0 := by
  rw [h.sourceGroup_eq, Nat.mul_eq_zero, or_iff_left (Nat.two_pow_pos _).ne']
  exact BitVec.toNat_inj (y := 0#8)

/-- A host takes the source's last group out of a padded CV.FLUSH's RESULT, if there is one. -/
theorem Buffers.unpack_padResult : Source.unpack s.toBits (padResult s) =
    if 0 < n then [(A <<< (s.toBits - n)) &&& (2 ^ s.toBits - 1)] else [] := by
  have hn := h.nbits_eq
  rw [← h.padGroup_eq]
  split
  · next hpos =>
    have hlow : padGroup s &&& (2 ^ s.toBits - 1) = padGroup s := by
      rw [Nat.and_two_pow_sub_one_eq_mod, Nat.mod_eq_of_lt (padGroup_lt s)]
    rw [padResult_of_nonempty (hn ▸ hpos), unpack_groupsWord _ _ _ (by decide) (padGroup_lt_out s)]
    simp [hlow]
  · next hpos =>
    rw [padResult_of_empty (by omega)]
    exact unpack_zero _

end Flush

/-- A CV.FLUSH ends a stream as the source ends its input (42_bitconv.md R124 to R126, R128). -/
theorem Converting.flush_reports {fromBits toBits : Nat} {pad : Bool} {s v t : State} {A n : Nat}
    (h : Converting fromBits toBits pad s A n) (hi : exec .cvFlush s = .next v) (ht : SameConverter v t) (k : Nat)
    (out : List Nat) : Reports toBits 0 k out [v] t (Source.finish fromBits toBits pad A n out) := by
  obtain ⟨rfl, rfl, hp, hc, hbuf⟩ := h
  obtain ⟨-, -, -, -, -, hcverr, -, -⟩ := ht
  cases pad with
  | true =>
    have hfinish : Source.finish s.fromBits s.toBits true A n out =
        .groups (out ++ Source.unpack s.toBits (padResult s)) := by
      rw [hbuf.unpack_padResult, Source.finish, if_pos rfl]
      split
      · rfl
      · rw [List.append_nil]
    rw [exec_cvFlush_padded hc hp] at hi
    cases hi
    rw [hfinish]
    exact ⟨rfl, by simp⟩
  | false =>
    by_cases hdrop : n < s.fromBits ∧ s.acc = 0
    · obtain ⟨hn, ha⟩ := hdrop
      have hfinish : Source.finish s.fromBits s.toBits false A n out = .groups out :=
        if_pos ⟨hn, hbuf.sourceGroup_eq_zero_iff.2 ha⟩
      rw [exec_cvFlush_dropped hc hp (hbuf.nbits_eq ▸ hn) ha] at hi
      cases hi
      rw [hfinish]
      exact ⟨rfl, by simp [unpack_zero]⟩
    · have hfinish : Source.finish s.fromBits s.toBits false A n out = .invalidPadding :=
        if_neg fun ⟨hn, hgroup⟩ => hdrop ⟨hn, hbuf.sourceGroup_eq_zero_iff.1 hgroup⟩
      have hpad : s.fromBits ≤ s.nbits.toNat ∨ s.acc ≠ 0 := by
        rw [hbuf.nbits_eq, ← Nat.not_lt]
        exact not_and_or.1 hdrop
      rw [exec_cvFlush_invalidPadding hc hp hpad] at hi
      cases hi
      rw [hfinish]
      exact ⟨rfl, hcverr.symm⟩

/-- From the middle of a stream on, the host sees what the source's `convert` returns (42_bitconv.md R128). -/
theorem Converting.reports {fromBits toBits : Nat} {pad : Bool} {d : List Byte} {s t : State} {A n : Nat}
    {outs : List State} (h : Converting fromBits toBits pad s A n)
    (hrun : Interleaved SameConverter (d.map .cvPush ++ [.cvFlush]) s outs t) (k : Nat) (out : List Nat) :
    Reports toBits d.length k out outs t
      (Source.convertFrom fromBits toBits pad (d.map BitVec.toNat) k A n out) := by
  induction d generalizing s A n k out outs with
  | nil =>
    cases hrun with
    | command hs hi hend =>
      cases hend with
      | done ht => exact (h.of_same hs).flush_reports hi ht k out
  | cons b d ih =>
    cases hrun with
    | @command _ _ _ s' v _ outs hs hi hrest =>
      have h' := h.of_same hs
      rw [List.map_cons, Source.convertFrom]
      split
      · next hb =>
        rw [exec_cvPush_rejected h'.cverr_eq (h'.fromBits_eq ▸ hb)] at hi
        cases hi
        have hpushes : ∀ i ∈ d.map Instr.cvPush ++ [.cvFlush], (∃ b, i = .cvPush b) ∨ i = .cvFlush := by
          simp only [List.mem_append, List.mem_map, List.mem_singleton]
          rintro i (⟨b, -, rfl⟩ | rfl)
          · exact .inl ⟨b, rfl⟩
          · exact .inr rfl
        obtain ⟨herrs, hcverr⟩ := hrest.latched (by simp) hpushes
        refine ⟨0, rfl, ?_, hcverr⟩
        rw [List.map_cons, herrs]
        simp
      · next hb =>
        obtain ⟨herr, hunpack, hv⟩ := h'.cvPush (Nat.not_lt.1 hb) hi
        exact Reports.cons herr (hunpack ▸ ih hv hrest (k + 1) _)

/-- After CV.INIT a stream is where the source starts. -/
theorem reports_of_stream {f u : BitVec 3} {p : Bool} {d : List Byte} {s t : State} {outs : List State}
    (hrun : Interleaved SameConverter (.cvInit f u p :: (d.map .cvPush ++ [.cvFlush])) s outs t) :
    ∃ v outs', outs = v :: outs' ∧ v.err = 0 ∧
      Reports (u.toNat + 1) d.length 0 [] outs' t
        (Source.convert (d.map BitVec.toNat) (f.toNat + 1) (u.toNat + 1) p) := by
  cases hrun with
  | command _ hi hrest =>
    obtain ⟨herr, hconv⟩ := converting_of_cvInit hi
    exact ⟨_, _, rfl, herr, hconv.reports hrest 0 []⟩

/-- Settles O37: other words leave the converter's registers, and what the stream reports is read off for each of the
source's three results. -/
theorem converterStreamIsConvert : Obligations.ConverterStreamIsConvert := by
  unfold Obligations.ConverterStreamIsConvert
  intro f u p d ws s hws hr
  obtain ⟨ts, hts, hrun⟩ := statesAfter_interleaved converter_ownRegisters hr s
  rw [hws] at hrun
  obtain ⟨v, outs', houts, hv, hreports⟩ := reports_of_stream hrun
  have hlast : ts.getLast?.map State.cverr = some (ts.getLast?.getD s).cverr := by
    have hne : ts ≠ [] := by
      rintro rfl
      simp [familyStates] at houts
    simp [List.getLast?_eq_some_getLast hne]
  refine ⟨ts, hts, ?_⟩
  rw [houts, hlast]
  intro outs errs
  have herr : errs = 0 :: outs'.map State.err := by
    rw [← hv]
    rfl
  split
  · next gs hconvert =>
    rw [hconvert] at hreports
    obtain ⟨herrs, hgs⟩ := hreports
    exact ⟨by rw [herr, herrs, ← List.replicate_succ], hgs⟩
  · next i hconvert =>
    rw [hconvert] at hreports
    obtain ⟨j, hj, herrs, hc⟩ := hreports
    rw [Nat.zero_add] at hj
    exact ⟨by rw [herr, herrs, hj, List.replicate_succ, List.cons_append], congrArg some hc⟩
  · next hconvert =>
    rw [hconvert] at hreports
    obtain ⟨herrs, hc⟩ := hreports
    exact ⟨by rw [herr, herrs, List.replicate_succ, List.cons_append], congrArg some hc⟩

end Sys2Proof.Machine
end

section
/-!
Proofs of the statements about the checksum commands (43_checksum.md): the polymod step (R150), what each command does
(R151 to R154, R156, R158), the commands of CK.HRP (R155), whole streams (R157, R159), and linearity with
self-verification (R160).
-/

namespace Sys2Proof.Machine

/-! ### The polymod step (43_checksum.md R150) -/

/-- Settles O38: the block's step is the source's, so on numbers of the block's widths it stays in 30 bits. -/
theorem polymodStepIsTheSources : Obligations.PolymodStepIsTheSources := by
  unfold Obligations.PolymodStepIsTheSources
  refine ⟨polymodStep_toNat, fun c v hc hv => ?_⟩
  have hstep := polymodStep_toNat (BitVec.ofNat 30 c) (BitVec.ofNat 5 v)
  rw [BitVec.toNat_ofNat, BitVec.toNat_ofNat, Nat.mod_eq_of_lt hc, Nat.mod_eq_of_lt (b := 2 ^ 5) hv] at hstep
  exact hstep ▸ (polymodStep _ _).isLt

theorem polymodStep_eq_ofNat (c : Residue) (v : Symbol) :
    polymodStep c v = BitVec.ofNat 30 (Source.polymodStep c.toNat v.toNat) := by
  rw [← polymodStep_toNat, BitVec.ofNat_toNat, BitVec.setWidth_eq]

/-- CK.INIT's residue is where the source's polymod starts. -/
theorem foldl_polymodStep_initialResidue_toNat (vs : List Symbol) :
    (vs.foldl polymodStep Config.initialResidue).toNat = Source.polymod (vs.map BitVec.toNat) :=
  foldl_polymodStep_toNat vs Config.initialResidue

theorem polymodZeros_toNat (n : Nat) (c : Residue) :
    (polymodZeros n c).toNat = (List.replicate n 0).foldl Source.polymodStep c.toNat := by
  rw [polymodZeros_eq_foldl, foldl_polymodStep_toNat, List.map_replicate]
  rfl

/-! ### What the commands do, case by case (43_checksum.md R151 to R154, R156, R158) -/

theorem exec_ckInit (s : State) :
    exec .ckInit s = .next (((s.setChk Config.initialResidue).setMatched 0).setErr 0) := rfl

theorem feedSymbol_eq (v : Symbol) (s : State) :
    feedSymbol v s = .next ((s.setChk (polymodStep s.chk v)).setErr 0) := rfl

theorem exec_ckFinish (k : Kind) (s : State) : exec (.ckFinish k) s =
    .next (((s.setChk (polymodZeros 6 s.chk)).setResult
      ((polymodZeros 6 s.chk ^^^ Config.const k).setWidth 32)).setErr 0) := rfl

theorem exec_ckVerify (s : State) : exec .ckVerify s =
    .next (((s.setMatched (matchCode s.chk)).setResult ((matchCode s.chk).setWidth 32)).setErr 0) := rfl

theorem encode_ckSym (v : Symbol) : encode (.ckSym v) = 0x31000000#32 ||| v.setWidth 32 := by
  simp [encode, Instr.opcode, formatS, formatN]

/-- Settles O39: the word is fixed, and CK.INIT has one outcome. -/
theorem ckInitStartsAStream : Obligations.CkInitStartsAStream := by
  unfold Obligations.CkInitStartsAStream
  exact ⟨by decide, exec_ckInit⟩

/-- A command that feeds a symbol writes CHK, by the source's step, and ERR. -/
theorem feedSymbol_eq_source (v : Symbol) (s : State) : feedSymbol v s =
    .next { s with chk := BitVec.ofNat 30 (Source.polymodStep s.chk.toNat v.toNat), err := 0 } := by
  rw [feedSymbol_eq, polymodStep_eq_ofNat]
  rfl

/-- Settles O40: the word is the encoder's, and a reserved bit of format S makes it illegal. -/
theorem ckSymFeedsItsSymbol : Obligations.CkSymFeedsItsSymbol := by
  unfold Obligations.CkSymFeedsItsSymbol
  refine ⟨fun v s => ⟨?_, feedSymbol_eq_source v s⟩, fun w hop hreserved => ?_⟩
  · rw [← encode_ckSym, decode_encode]
  · exact decode_illegal_of_setsReserved (by simp [opcodeTable_eq])
      ((rowS_setsReserved w 0x31 .ckSym).2 ⟨hop, hreserved⟩)

/-- Settles O41: the symbols fed are the byte's two parts. -/
theorem ckHrpFeedsHighAndLowParts : Obligations.CkHrpFeedsHighAndLowParts := by
  unfold Obligations.CkHrpFeedsHighAndLowParts
  intro b s
  refine ⟨?_, ?_, ?_, ?_⟩
  · rw [← encode_ckHrpHi, decode_encode]
  · rw [← encode_ckHrpLo, decode_encode]
  · rw [← hrpHigh_toNat]
    exact feedSymbol_eq_source (hrpHigh b) s
  · rw [← hrpLow_toNat]
    exact feedSymbol_eq_source (hrpLow b) s

theorem const_toNat (k : Kind) : (Config.const k).toNat = Source.const k := by
  cases k <;> rfl

/-- CK.FINISH's RESULT as a number (43_checksum.md R156). -/
theorem xor_const_toNat (c : Residue) (k : Kind) :
    ((c ^^^ Config.const k).setWidth 32).toNat = c.toNat ^^^ Source.const k := by
  rw [BitVec.toNat_setWidth_of_le (by decide), BitVec.toNat_xor, const_toNat]

/-- Settles O42: on numbers the residue is the source's fold over six zeros, and it cancels between the two kinds. -/
theorem ckFinishGivesTheChecksum : Obligations.CkFinishGivesTheChecksum := by
  unfold Obligations.CkFinishGivesTheChecksum
  refine ⟨by decide, by decide, fun k s => ?_, fun s t u ht hu => ?_⟩
  · intro c
    have hc : c = (polymodZeros 6 s.chk).toNat := (polymodZeros_toNat 6 s.chk).symm
    rw [hc, ← xor_const_toNat]
    simp only [BitVec.ofNat_toNat, BitVec.setWidth_eq]
    exact exec_ckFinish k s
  · rw [exec_ckFinish] at ht hu
    cases ht
    cases hu
    have hcancel (c a b : Residue) : (c ^^^ a) ^^^ (c ^^^ b) = a ^^^ b := by
      rw [BitVec.xor_comm c a, BitVec.xor_assoc, ← BitVec.xor_assoc c c, BitVec.xor_self, BitVec.zero_xor]
    simp only [State.setErr_result, State.setResult_result]
    rw [← BitVec.setWidth_xor, hcancel]
    rfl

theorem residue_eq_const_iff (c : Residue) (k : Kind) : c = Config.const k ↔ c.toNat = Source.const k := by
  rw [← BitVec.toNat_inj, const_toNat]

/-- The three cases of CK.VERIFY (43_checksum.md R158). -/
theorem matchCode_cases (c : Residue) :
    (c.toNat = Source.const .bech32 → matchCode c = 1) ∧ (c.toNat = Source.const .bech32m → matchCode c = 2) ∧
      (c.toNat ≠ Source.const .bech32 → c.toNat ≠ Source.const .bech32m → matchCode c = 0) := by
  simp only [ne_eq, ← residue_eq_const_iff]
  refine ⟨?_, ?_, fun h h' => ?_⟩
  · rintro rfl
    rfl
  · rintro rfl
    rfl
  · rw [matchCode, if_neg h, if_neg h']

/-- Settles O43: the three cases of the match code. -/
theorem ckVerifyClassifiesTheResidue : Obligations.CkVerifyClassifiesTheResidue := by
  unfold Obligations.CkVerifyClassifiesTheResidue
  refine ⟨by decide, fun s => ?_⟩
  obtain ⟨hbech32, hbech32m, hnone⟩ := matchCode_cases s.chk
  rw [exec_ckVerify]
  refine ⟨fun h => ?_, fun h => ?_, fun h h' => ?_⟩
  · rw [hbech32 h]
    rfl
  · rw [hbech32m h]
    rfl
  · rw [hnone h h']
    rfl

/-! ### What CK.HRP feeds (43_checksum.md R155) -/

/-- Commands that each feed one symbol, from any state: at least one of them clears ERR. -/
theorem runCommands_of_feeds {is : List Instr} {vs : List Symbol} (hne : is ≠ []) (h : List.Forall₂ Feeds is vs)
    (s : State) : runCommands is s = some ((s.setChk (vs.foldl polymodStep s.chk)).setErr 0) := by
  rw [← runCommands_setErr hne s 0, runCommands_feeds h]

/-- Settles O44: after CK.INIT the commands of CK.HRP feed the source's expansion to the source's initial value. -/
theorem hrpMacroFeedsTheExpansion : Obligations.HrpMacroFeedsTheExpansion := by
  unfold Obligations.HrpMacroFeedsTheExpansion
  intro hrp s
  refine ⟨_, runCommands_feeds (expandHrpMacro_feeds hrp) ((s.setChk Config.initialResidue).setMatched 0), ?_⟩
  rw [← hrpSymbols_toNat]
  exact foldl_polymodStep_initialResidue_toNat (hrpSymbols hrp)

/-! ### Linearity and self-verification (43_checksum.md R160) -/

/-- A symbol and the number shifted left by its width stand side by side. -/
theorem xor_shiftLeft_eq_add (v : Symbol) (d : Nat) : v.toNat ^^^ (d <<< 5) = v.toNat + 32 * d := by
  apply Nat.eq_of_testBit_eq
  intro i
  rw [Nat.add_comm, Nat.testBit_two_pow_mul_add (i := 5) d v.isLt, Nat.testBit_xor, Nat.testBit_shiftLeft]
  split
  · next hi => simp [Nat.not_le.2 hi]
  · next hi =>
    have hv : v.toNat.testBit i = false := v.getLsbD_of_ge i (Nat.not_lt.1 hi)
    simp [hv, Nat.not_lt.1 hi]

theorem ofDigits_symbols_lt (vs : List Symbol) : Nat.ofDigits 32 (vs.map BitVec.toNat) < 2 ^ (5 * vs.length) := by
  have hdigits : ∀ x ∈ vs.map BitVec.toNat, x < 32 := by
    simp only [List.forall_mem_map]
    exact fun v _ => v.isLt
  rw [Nat.pow_mul]
  simpa using Nat.ofDigits_lt_base_pow_length (by decide) hdigits

/-- A step shifts what earlier steps XORed into the residue, and XORs its own symbol into the bits this frees. -/
theorem polymodStep_toNat_of_xor {x z : Residue} {d : Nat} (hd : d < 2 ^ 25) (hx : x.toNat = z.toNat ^^^ d)
    (v : Symbol) : (polymodStep x v).toNat = (polymodStep z 0).toNat ^^^ (v.toNat + 32 * d) := by
  have hd30 : d < 2 ^ 30 := hd.trans (by decide)
  have hshift : d <<< 5 < 2 ^ 30 := by
    rw [Nat.shiftLeft_eq]
    omega
  have hdnat : (BitVec.ofNat 30 d).toNat = d := by rw [BitVec.toNat_ofNat, Nat.mod_eq_of_lt hd30]
  have hxor : x = z ^^^ BitVec.ofNat 30 d := by
    apply BitVec.eq_of_toNat_eq
    rw [hx, BitVec.toNat_xor, hdnat]
  rw [hxor, polymodStep_xor_small z _ v (hdnat.trans_lt hd), polymodStep_input z v, BitVec.xor_assoc, BitVec.toNat_xor,
    BitVec.toNat_xor, BitVec.toNat_setWidth_of_le (by decide), BitVec.toNat_shiftLeft, hdnat, Nat.mod_eq_of_lt hshift,
    xor_shiftLeft_eq_add]

/-- Up to six symbols, written last fed first: a later step shifts what was fed left, and only a seventh would feed it
back. -/
theorem foldr_polymodStep_toNat (c : Residue) (vs : List Symbol) (h : vs.length ≤ 6) :
    (vs.foldr (fun v x => polymodStep x v) c).toNat =
      ((List.replicate vs.length (0 : Symbol)).foldr (fun v x => polymodStep x v) c).toNat ^^^
        Nat.ofDigits 32 (vs.map BitVec.toNat) := by
  induction vs with
  | nil => simp
  | cons v vs ih =>
    rw [List.length_cons] at h
    have hd : Nat.ofDigits 32 (vs.map BitVec.toNat) < 2 ^ 25 :=
      (ofDigits_symbols_lt vs).trans_le (Nat.pow_le_pow_right (by decide) (by omega))
    rw [List.map_cons, Nat.ofDigits_cons]
    exact polymodStep_toNat_of_xor hd (ih (by omega)) v

/-- Settles O46: the six symbols are the base-32 digits of the number, the last fed the least significant. -/
theorem sixSymbolsEnterLinearly : Obligations.SixSymbolsEnterLinearly := by
  unfold Obligations.SixSymbolsEnterLinearly
  intro c s0 s1 s2 s3 s4 s5
  have hvalue : Nat.ofDigits 32 ([s5, s4, s3, s2, s1, s0].map BitVec.toNat) =
      s0.toNat * 2 ^ 25 + s1.toNat * 2 ^ 20 + s2.toNat * 2 ^ 15 + s3.toNat * 2 ^ 10 + s4.toNat * 2 ^ 5 + s5.toNat := by
    simp only [List.map_cons, List.map_nil, Nat.ofDigits_cons, Nat.ofDigits_nil]
    ring
  rw [← hvalue]
  exact foldr_polymodStep_toNat c [s5, s4, s3, s2, s1, s0] le_rfl

theorem ckSym_feeds (vs : List Symbol) : List.Forall₂ Feeds (vs.map .ckSym) vs := by
  rw [List.forall₂_map_left_iff, List.forall₂_same]
  exact fun v _ _ => rfl

/-- The six symbols of a residue-wide value (43_checksum.md R157). -/
def symbolsOf (r : Residue) : List Symbol := (Source.checksumSymbols r.toNat).map (BitVec.ofNat 5)

/-- The six symbols of a value, side by side, are the value. -/
theorem symbolsOf_eq (r : Residue) : ∃ s0 s1 s2 s3 s4 s5 : Symbol, symbolsOf r = [s0, s1, s2, s3, s4, s5] ∧
    s0.toNat * 2 ^ 25 + s1.toNat * 2 ^ 20 + s2.toNat * 2 ^ 15 + s3.toNat * 2 ^ 10 + s4.toNat * 2 ^ 5 + s5.toNat =
      r.toNat := by
  have hr : r.toNat < 2 ^ 30 := r.isLt
  have hlow (n : Nat) : n &&& 31 = n % 32 := Nat.and_two_pow_sub_one_eq_mod n 5
  refine ⟨_, _, _, _, _, _, rfl, ?_⟩
  simp only [BitVec.toNat_ofNat, Nat.shiftRight_eq_div_pow, hlow, Nat.reduceSub, Nat.reduceMul, Nat.reducePow,
    Nat.mod_mod]
  omega

/-- Feeding the six symbols of a value XORs the value into the residue (43_checksum.md R160). -/
theorem foldl_polymodStep_symbolsOf (c r : Residue) : (symbolsOf r).foldl polymodStep c = polymodZeros 6 c ^^^ r := by
  obtain ⟨s0, s1, s2, s3, s4, s5, hsymbols, hvalue⟩ := symbolsOf_eq r
  apply BitVec.eq_of_toNat_eq
  rw [hsymbols, sixSymbolsEnterLinearly, hvalue, BitVec.toNat_xor, polymodZeros_eq_foldl]

/-- Settles O47: RESULT is the residue XORed with the constant, so feeding its symbols from the same state leaves the
constant. -/
theorem createdChecksumVerifies : Obligations.CreatedChecksumVerifies := by
  unfold Obligations.CreatedChecksumVerifies
  intro k s
  let r := polymodZeros 6 s.chk ^^^ Config.const k
  have hsymbols : (Source.checksumSymbols (r.setWidth 32).toNat).map (fun v => Instr.ckSym (BitVec.ofNat 5 v)) =
      (symbolsOf r).map .ckSym := by
    rw [BitVec.toNat_setWidth_of_le (by decide), symbolsOf, List.map_map]
    rfl
  have hchk : (symbolsOf r).foldl polymodStep s.chk = Config.const k := by
    rw [foldl_polymodStep_symbolsOf, ← BitVec.xor_assoc, BitVec.xor_self, BitVec.zero_xor]
  refine ⟨_, (s.setChk (Config.const k)).setErr 0, _, exec_ckFinish k s, ?_, rfl, exec_ckVerify _, ?_⟩
  · rw [State.setErr_result, State.setResult_result, hsymbols, ← hchk]
    exact runCommands_of_feeds (by simp [symbolsOf, Source.checksumSymbols]) (ckSym_feeds _) s
  · cases k <;> rfl

/-! ### Checksum streams (43_checksum.md R159) -/

/-- A command outside the checksum family, RST excepted, leaves CHK and MATCH (70_reset_and_hazards.md R236). -/
theorem exec_keeps_checksum {i : Instr} {s t : State} (hi : i.isChecksum = false) (hr : i ≠ .rst)
    (h : exec i s = .next t) : SameChecksum s t := by
  cases i with
  | rst => exact absurd rfl hr
  | csDec b => rcases (execCsDec_next b s t).1 h with ⟨_, _, rfl⟩ | ⟨_, rfl⟩ <;> simp [SameChecksum]
  | cvPush b =>
    rcases (execCvPush_next b s t).1 h with ⟨_, rfl⟩ | ⟨_, _, rfl⟩ | ⟨_, _, rfl⟩ <;> simp [SameChecksum, pushAccepted]
  | cvFlush =>
    rcases (execCvFlush_next s t).1 h with ⟨_, rfl⟩ | ⟨_, _, rfl⟩ | ⟨_, _, _, rfl⟩ | ⟨_, _, _, rfl⟩ <;>
      simp [SameChecksum]
  | nop => cases h; simp [SameChecksum]
  | csEnc v => cases h; simp [SameChecksum]
  | cvInit f u p => cases h; simp [SameChecksum]
  | _ => cases hi

theorem checksum_ownRegisters : OwnRegisters Instr.isChecksum SameChecksum where
  refl s := by simp [SameChecksum]
  trans hst htu := by simp_all [SameChecksum]
  exec_other hi hr h := exec_keeps_checksum hi hr h
  setErr s e := by simp [SameChecksum]

/-- What runs between the last command of a family and the end leaves the family's registers. -/
theorem Interleaved.same_last {same : State → State → Prop} {is : List Instr} {s t : State} {outs : List State}
    (h : Interleaved same is s outs t) : same (outs.getLast?.getD s) t := by
  induction h with
  | done hst => exact hst
  | command _ _ _ ih => rwa [List.getLast?_cons, Option.getD_some]

/-- The last command runs where the commands before it have led. -/
theorem Interleaved.exec_last {same : State → State → Prop} {is : List Instr} {i : Instr} {s t : State}
    {outs : List State} (h : Interleaved same (is ++ [i]) s outs t) :
    ∃ outs' u v, Interleaved same is s outs' u ∧ exec i u = .next v ∧ outs.getLast? = some v := by
  induction is generalizing s outs with
  | nil =>
    cases h with
    | command hs hi hend =>
      cases hend with
      | done _ => exact ⟨[], _, _, .done hs, hi, rfl⟩
  | cons j is ih =>
    cases h with
    | command hs hj hrest =>
      obtain ⟨outs', u, v, hrun, hi, hlast⟩ := ih hrest
      exact ⟨_, u, v, .command hs hj hrun, hi, by rw [List.getLast?_cons, hlast, Option.getD_some]⟩

/-- Commands that each feed one symbol feed their symbols in order, whatever else runs between them. -/
theorem Interleaved.chk_of_feeds {is : List Instr} {vs : List Symbol} {s t : State} {outs : List State}
    (hfeeds : List.Forall₂ Feeds is vs) (h : Interleaved SameChecksum is s outs t) :
    t.chk = vs.foldl polymodStep s.chk := by
  induction hfeeds generalizing s outs with
  | nil =>
    cases h with
    | done hst =>
      obtain ⟨hchk, -⟩ := hst
      exact hchk.symm
  | @cons i v is vs hi _ ih =>
    cases h with
    | command hs hexec hrest =>
      rw [hi, feedSymbol_eq] at hexec
      cases hexec
      obtain ⟨hchk, -⟩ := hs
      rw [ih hrest, hchk]
      rfl

/-- A stream's CK.INIT, and what runs from there on. -/
theorem checksumStream_run {is : List Instr} {ws : List Word}
    (hws : ws.filterMap (familyWord Instr.isChecksum) = .ckInit :: is) (hr : ∀ w ∈ ws, decode w ≠ .command .rst)
    (s : State) : ∃ ts v outs t, statesAfter ws s = some ts ∧ familyStates Instr.isChecksum ws ts = v :: outs ∧
      v.chk = Config.initialResidue ∧ Interleaved SameChecksum is v outs t := by
  obtain ⟨ts, hts, hrun⟩ := statesAfter_interleaved checksum_ownRegisters hr s
  rw [hws] at hrun
  generalize houts : familyStates Instr.isChecksum ws ts = outs at hrun
  cases hrun with
  | command _ hinit hrest =>
    rw [exec_ckInit] at hinit
    cases hinit
    exact ⟨ts, _, _, _, hts, houts, rfl, hrest⟩

/-- The last command of a stream that feeds an HRP and a payload runs on the source's residue of the two. -/
theorem checksumStream_exec_last {hrp : List Byte} {p : List Symbol} {i : Instr} {ws : List Word}
    (hws : ws.filterMap (familyWord Instr.isChecksum) = .ckInit :: (expandHrpMacro hrp ++ p.map .ckSym ++ [i]))
    (hr : ∀ w ∈ ws, decode w ≠ .command .rst) (s : State) :
    ∃ ts u t, statesAfter ws s = some ts ∧ (familyStates Instr.isChecksum ws ts).getLast? = some t ∧
      exec i u = .next t ∧
      u.chk.toNat = Source.polymod (Source.expandHrp (hrp.map BitVec.toNat) ++ p.map BitVec.toNat) := by
  obtain ⟨ts, v, outs, _, hts, houts, hv, hrun⟩ := checksumStream_run hws hr s
  obtain ⟨_, u, t, hfed, hexec, hlast⟩ := hrun.exec_last
  have hchk := hfed.chk_of_feeds (List.rel_append (expandHrpMacro_feeds hrp) (ckSym_feeds p))
  refine ⟨ts, u, t, hts, by rw [houts, List.getLast?_cons, hlast, Option.getD_some], hexec, ?_⟩
  rw [hchk, hv, foldl_polymodStep_initialResidue_toNat, List.map_append, hrpSymbols_toNat]

/-- CK.FINISH on the source's residue of an HRP and a payload gives the source's checksum value (43_checksum.md R156). -/
theorem finish_toNat_eq_checksumValue {c : Residue} {hrp p : List Nat}
    (hc : c.toNat = Source.polymod (Source.expandHrp hrp ++ p)) (k : Kind) :
    ((polymodZeros 6 c ^^^ Config.const k).setWidth 32).toNat = Source.checksumValue hrp p k := by
  rw [xor_const_toNat, polymodZeros_toNat, hc, Source.checksumValue, Source.polymod, Source.polymod, ← List.foldl_append]

/-- CK.VERIFY on the source's residue of an HRP and data gives the code of the source's verdict (43_checksum.md R158). -/
theorem matchCode_toNat_eq_verdict {c : Residue} {hrp q : List Nat}
    (hc : c.toNat = Source.polymod (Source.expandHrp hrp ++ q)) :
    (matchCode c).toNat = Source.matchCode (Source.verifyChecksum hrp q) := by
  simp only [matchCode, Source.verifyChecksum, residue_eq_const_iff, hc]
  split_ifs <;> rfl

/-- Settles O45: other words leave CHK, so each stream's commands feed their symbols to the source's initial value. -/
theorem checksumStreamIsTheSources : Obligations.ChecksumStreamIsTheSources := by
  unfold Obligations.ChecksumStreamIsTheSources
  refine ⟨fun vs ws s hws hr => ?_, fun hrp p k ws s hws hr => ?_, fun hrp q ws s hws hr => ?_⟩
  · obtain ⟨ts, v, outs, t, hts, houts, hv, hrun⟩ := checksumStream_run hws hr s
    obtain ⟨hchk, -⟩ := hrun.same_last
    refine ⟨ts, _, hts, by rw [houts, List.getLast?_cons], ?_⟩
    rw [hchk, hrun.chk_of_feeds (ckSym_feeds vs), hv, foldl_polymodStep_initialResidue_toNat]
  · obtain ⟨ts, u, t, hts, hlast, hexec, hu⟩ := checksumStream_exec_last hws hr s
    rw [exec_ckFinish] at hexec
    cases hexec
    have hvalue := finish_toNat_eq_checksumValue hu k
    exact ⟨ts, _, hts, hlast, hvalue, congrArg Source.checksumSymbols hvalue⟩
  · obtain ⟨ts, u, t, hts, hlast, hexec, hu⟩ := checksumStream_exec_last hws hr s
    rw [exec_ckVerify] at hexec
    cases hexec
    exact ⟨ts, _, hts, hlast, matchCode_toNat_eq_verdict hu⟩

end Sys2Proof.Machine
end

section
/-!
Proofs of the statement about NOP (44_control.md R180). Format N reserves all the bits below the opcode, so an opcode of that
format has one legal word.
-/

namespace Sys2Proof.Machine

theorem exec_nop (s : State) : exec .nop s = .next (s.setErr 0) := rfl

/-- A word with the opcode of a row of format N is illegal when it is not the row's one word (30_encoding.md R82, R86). -/
theorem decode_illegal_of_ne_formatN {w : Word} {op : BitVec 8} {i : Instr} (hr : rowN op i ∈ opcodeTable)
    (hop : w.toNat / 2 ^ 24 = op.toNat) (hw : w ≠ formatN op) : ∃ why, decode w = .illegal why := by
  have hopcode : fieldOP (formatN op) = fieldOP w := by
    rw [fieldOP_formatN, (fieldOP_eq_iff w op).2 hop]
  have hmask : w &&& (rowN op i).mask = w := BitVec.and_allOnes
  exact decode_illegal_of_setsReserved hr ⟨hopcode, hmask.trans_ne hw⟩

/-- Settles O24: NOP only ends, and of its opcode's words the row of NOP accepts the zero word alone. -/
theorem nopClearsErr : Obligations.NopClearsErr := by
  unfold Obligations.NopClearsErr
  refine ⟨exec_nop, decode_encode .nop, fun w hop hw => ?_⟩
  exact decode_illegal_of_ne_formatN (op := 0x00) (i := .nop) (by simp [opcodeTable_eq]) hop hw

end Sys2Proof.Machine
end

section
/-!
Proofs of the statements about errors (60_exceptions.md): the ways a command can end (R201, R203), the illegal command
(R202), and the idle block (R214).
-/

namespace Sys2Proof.Machine

/-! ### The ways a command can end (60_exceptions.md R201, R203) -/

/-- A command ends with ERR 0, or in one row of the table of 60_exceptions.md R201: the row's command, and all it changes. -/
theorem exec_err_cases {i : Instr} {s t : State} (h : exec i s = .next t) :
    t.err = 0 ∨
    ((∃ b, i = .cvPush b) ∧ t = ((s.setConverterError 1 s.padx s.padnz).setResult 0).setErr 2) ∨
    (i = .cvFlush ∧ t = ((s.setConverterError 2 s.tooManyLeft s.nonZeroLeft).setResult 0).setErr 3) ∨
    ((∃ b, i = .csDec b) ∧ t = (s.setResult 0).setErr 4) ∨
    (((∃ b, i = .cvPush b) ∨ i = .cvFlush) ∧ t = (s.setResult 0).setErr 5) := by
  cases i with
  | csDec b =>
    rcases (execCsDec_next b s t).1 h with ⟨_, _, rfl⟩ | ⟨_, ht⟩
    · exact .inl rfl
    · exact .inr (.inr (.inr (.inl ⟨⟨b, rfl⟩, ht⟩)))
  | cvPush b =>
    rcases (execCvPush_next b s t).1 h with ⟨_, ht⟩ | ⟨_, _, ht⟩ | ⟨_, _, rfl⟩
    · exact .inr (.inr (.inr (.inr ⟨.inl ⟨b, rfl⟩, ht⟩)))
    · exact .inr (.inl ⟨⟨b, rfl⟩, ht⟩)
    · exact .inl rfl
  | cvFlush =>
    rcases (execCvFlush_next s t).1 h with ⟨_, ht⟩ | ⟨_, _, rfl⟩ | ⟨_, _, _, ht⟩ | ⟨_, _, _, rfl⟩
    · exact .inr (.inr (.inr (.inr ⟨.inr rfl, ht⟩)))
    · exact .inl rfl
    · exact .inr (.inr (.inl ⟨rfl, ht⟩))
    · exact .inl rfl
  | _ => cases h; exact .inl rfl

/-- Settles O22: each row's code is its own, so the code tells which row the command ended in. -/
theorem errorsArePreciseAndPerCommand : Obligations.ErrorsArePreciseAndPerCommand := by
  unfold Obligations.ErrorsArePreciseAndPerCommand
  intro i s t h
  rcases exec_err_cases h with h0 | ⟨hi, rfl⟩ | ⟨hi, rfl⟩ | ⟨hi, rfl⟩ | ⟨hi, rfl⟩
  · simp [h0]
  · exact ⟨.inr (.inl ⟨rfl, hi⟩), by simp, fun _ => rfl, by simp⟩
  · exact ⟨.inr (.inr (.inl ⟨rfl, hi⟩)), by simp, by simp, fun _ => rfl⟩
  · exact ⟨.inr (.inr (.inr (.inl ⟨rfl, hi⟩))), fun _ => rfl, by simp, by simp⟩
  · exact ⟨.inr (.inr (.inr (.inr ⟨rfl, hi⟩))), fun _ => rfl, by simp, by simp⟩

/-! ### The illegal command and the idle block (60_exceptions.md R202, R214) -/

/-- Settles O6: the write is acknowledged whatever its word, and an illegal word executes as `ERR <- 1` alone. -/
theorem illegalCommandSetsErrOnly : Obligations.IllegalCommandSetsErrOnly := by
  unfold Obligations.IllegalCommandSetsErrOnly
  refine ⟨rfl, fun s rest w why hp hdecode => ?_⟩
  exact step_writeCmd s _ rest w hp (execute_of_illegal hdecode (s.setPending rest))

/-- Settles O10: an idle slot, taken from the list or for want of an event, writes the answer alone. -/
theorem idleBlockHoldsItsState : Obligations.IdleBlockHoldsItsState := by
  unfold Obligations.IdleBlockHoldsItsState
  exact ⟨fun s rest hp => step_cons s .idle rest hp, step_nil⟩

end Sys2Proof.Machine
end

section
/-!
Proofs of the statement about hazards between the families (70_reset_and_hazards.md R236): a command outside a family leaves
the family's registers, RST sets them to fixed values, and a command of the family computes them from themselves.
-/

namespace Sys2Proof.Machine

/-- Two states that agree on registers of their own still agree after a command that does not write these registers. -/
theorem OwnRegisters.exec_other_same {family : Instr → Bool} {same : State → State → Prop}
    (hown : OwnRegisters family same) (hsymm : ∀ {s t : State}, same s t → same t s) {i : Instr} {s s' t t' : State}
    (hs : same s s') (h : exec i s = .next t) (h' : exec i s' = .next t') (hi : family i = false) (hr : i ≠ .rst) :
    same t t' :=
  hown.trans (hsymm (hown.exec_other hi hr h)) (hown.trans hs (hown.exec_other hi hr h'))

/-! ### The checksum registers -/

theorem SameChecksum.symm {s t : State} (hs : SameChecksum s t) : SameChecksum t s := by
  obtain ⟨hchk, hmatched⟩ := hs
  exact ⟨hchk.symm, hmatched.symm⟩

theorem feedSymbol_sameChecksum {v : Symbol} {s s' t t' : State} (hs : SameChecksum s s')
    (h : feedSymbol v s = .next t) (h' : feedSymbol v s' = .next t') : SameChecksum t t' := by
  obtain ⟨hchk, hmatched⟩ := hs
  cases h
  cases h'
  exact ⟨congrArg (polymodStep · v) hchk, hmatched⟩

/-- CHK and MATCH after a command depend on CHK and MATCH before it alone. -/
theorem exec_sameChecksum {i : Instr} {s s' t t' : State} (hs : SameChecksum s s')
    (h : exec i s = .next t) (h' : exec i s' = .next t') : SameChecksum t t' := by
  cases i with
  | rst => cases h; cases h'; exact ⟨rfl, rfl⟩
  | ckInit => cases h; cases h'; exact ⟨rfl, rfl⟩
  | ckSym v => exact feedSymbol_sameChecksum hs h h'
  | ckHrpHi b => exact feedSymbol_sameChecksum hs h h'
  | ckHrpLo b => exact feedSymbol_sameChecksum hs h h'
  | ckFinish k =>
    obtain ⟨hchk, hmatched⟩ := hs
    cases h; cases h'
    exact ⟨congrArg (polymodZeros 6) hchk, hmatched⟩
  | ckVerify =>
    obtain ⟨hchk, -⟩ := hs
    cases h; cases h'
    exact ⟨hchk, congrArg matchCode hchk⟩
  | _ => exact checksum_ownRegisters.exec_other_same SameChecksum.symm hs h h' rfl nofun

/-! ### The converter registers -/

section SameConverter

variable {s s' : State} (hs : SameConverter s s')
include hs

theorem SameConverter.symm : SameConverter s' s := by
  obtain ⟨hacc, hnbits, hf, ht, hp, hcverr, hpadx, hpadnz⟩ := hs
  exact ⟨hacc.symm, hnbits.symm, hf.symm, ht.symm, hp.symm, hcverr.symm, hpadx.symm, hpadnz.symm⟩

theorem SameConverter.fromBits_eq : s.fromBits = s'.fromBits := by
  obtain ⟨-, -, hf, -, -, -, -, -⟩ := hs
  rw [State.fromBits, State.fromBits, hf]

theorem SameConverter.tooManyLeft_eq : s.tooManyLeft = s'.tooManyLeft := by
  have ⟨_, hnbits, _, _, _, _, _, _⟩ := hs
  rw [State.tooManyLeft, State.tooManyLeft, hs.fromBits_eq, hnbits]

theorem SameConverter.nonZeroLeft_eq : s.nonZeroLeft = s'.nonZeroLeft := by
  obtain ⟨hacc, -, -, -, -, -, -, -⟩ := hs
  rw [State.nonZeroLeft, State.nonZeroLeft, hacc]

theorem SameConverter.padInvalid_eq : s.padInvalid = s'.padInvalid := by
  rw [State.padInvalid, State.padInvalid, hs.tooManyLeft_eq, hs.nonZeroLeft_eq]

/-- The buffer after an accepted input is computed from the converter's registers and the input. -/
theorem SameConverter.pushAccepted (b : Byte) : SameConverter (pushAccepted b s) (pushAccepted b s') := by
  obtain ⟨hacc, hnbits, hf, ht, hp, hcverr, hpadx, hpadnz⟩ := hs
  simp [SameConverter, Machine.pushAccepted, State.fromBits, State.toBits, *]

theorem SameConverter.setConverterError (e : BitVec 2) {x x' nz nz' : Bool} (hx : x = x') (hnz : nz = nz') :
    SameConverter (s.setConverterError e x nz) (s'.setConverterError e x' nz') := by
  obtain ⟨hacc, hnbits, hf, ht, hp, -, -, -⟩ := hs
  exact ⟨hacc, hnbits, hf, ht, hp, rfl, hx, hnz⟩

theorem SameConverter.setBuffer (a : BitVec 8) (n : BitVec 4) : SameConverter (s.setBuffer a n) (s'.setBuffer a n) := by
  obtain ⟨-, -, hf, ht, hp, hcverr, hpadx, hpadnz⟩ := hs
  exact ⟨rfl, rfl, hf, ht, hp, hcverr, hpadx, hpadnz⟩

/-- The checks of CV.PUSH read the converter's registers alone, so both states take the same of its three cases. -/
theorem exec_cvPush_sameConverter {b : Byte} {t t' : State} (h : exec (.cvPush b) s = .next t)
    (h' : exec (.cvPush b) s' = .next t') : SameConverter t t' := by
  have ⟨_, _, _, _, _, hcverr, hpadx, hpadnz⟩ := hs
  rcases (execCvPush_next b s t).1 h with ⟨hc, rfl⟩ | ⟨hc, hb, rfl⟩ | ⟨hc, hb, rfl⟩ <;> rw [hcverr] at hc
  · rw [exec_cvPush_latched b hc] at h'
    cases h'
    exact hs
  · rw [hs.fromBits_eq] at hb
    rw [exec_cvPush_rejected hc hb] at h'
    cases h'
    exact hs.setConverterError 1 hpadx hpadnz
  · rw [hs.fromBits_eq] at hb
    rw [exec_cvPush_accepted hc hb] at h'
    cases h'
    exact hs.pushAccepted b

/-- The checks of CV.FLUSH read the converter's registers alone, so both states take the same of its four cases. -/
theorem exec_cvFlush_sameConverter {t t' : State} (h : exec .cvFlush s = .next t)
    (h' : exec .cvFlush s' = .next t') : SameConverter t t' := by
  have ⟨_, _, _, _, hcfgP, hcverr, _, _⟩ := hs
  rcases (execCvFlush_next s t).1 h with ⟨hc, rfl⟩ | ⟨hc, hp, rfl⟩ | ⟨hc, hp, hpad, rfl⟩ | ⟨hc, hp, hpad, rfl⟩ <;>
    rw [hcverr] at hc
  · rw [exec_cvFlush_latched hc] at h'
    cases h'
    exact hs
  · rw [hcfgP] at hp
    rw [exec_cvFlush_padded hc hp] at h'
    cases h'
    exact hs.setBuffer 0 0
  · rw [hcfgP] at hp
    rw [hs.padInvalid_eq, State.padInvalid_iff] at hpad
    rw [exec_cvFlush_invalidPadding hc hp hpad] at h'
    cases h'
    exact hs.setConverterError 2 hs.tooManyLeft_eq hs.nonZeroLeft_eq
  · rw [hcfgP] at hp
    rw [hs.padInvalid_eq] at hpad
    cases h'.symm.trans ((execCvFlush_next s' _).2 (.inr (.inr (.inr ⟨hc, hp, hpad, rfl⟩))))
    exact hs.setBuffer 0 0

/-- The converter's registers after a command depend on the converter's registers before it alone. -/
theorem exec_sameConverter {i : Instr} {t t' : State} (h : exec i s = .next t) (h' : exec i s' = .next t') :
    SameConverter t t' := by
  cases i with
  | rst => cases h; cases h'; simp [SameConverter]
  | cvInit f u p => cases h; cases h'; simp [SameConverter]
  | cvPush b => exact exec_cvPush_sameConverter hs h h'
  | cvFlush => exact exec_cvFlush_sameConverter hs h h'
  | _ => exact converter_ownRegisters.exec_other_same SameConverter.symm hs h h' rfl nofun

end SameConverter

/-- Settles O23: in each family the registers after any command are a function of the family's registers before it. -/
theorem familiesDoNotInterfere : Obligations.FamiliesDoNotInterfere := by
  unfold Obligations.FamiliesDoNotInterfere
  exact fun i s s' t t' h h' => ⟨fun hs => exec_sameChecksum hs h h', fun hs => exec_sameConverter hs h h'⟩

end Sys2Proof.Machine
end
